-- ==== Sys2Proof/Word.lean ====
section
/-! DEFINITION. The word types: a transaction word and a status-register value are 32 bits (R75, R13), every
datum of a stream is one byte (R50). -/
namespace Sys2Proof

/-- A transaction word, or a value of the status-register space (R13): 32 bits, bit 0 the least
significant (R14). -/
abbrev Word := BitVec 32

/-- The unit of every stream (R50). -/
abbrev Byte := BitVec 8

end Sys2Proof
end

