-- ==== Sys2Proof/Config.lean ====
section
/-! DEFINITION. What an implementation fixes: the open parameters MODE_TABLE (R8), NSUB_MAX (R10), CAP_FIC and CAP_SUB
(R11), OUT_CAP (R12), and the one constant the spec fixes, the capacity unit (R6). -/
namespace Sys2Proof

/-- Bytes in one capacity unit, CU_BYTES (R6). It is not a parameter. -/
def Config.cuBytes : Nat := 8

/-- The capacity of a FIFO: a natural number of bytes or `inf` (R11, R12). -/
inductive Capacity where
  | bounded (bytes : Nat)
  | inf
  deriving DecidableEq, Repr, Inhabited

/-- `c.holds n`: a FIFO of capacity `c` can hold `n` bytes (R11, R12). -/
def Capacity.holds : Capacity → Nat → Bool
  | .bounded b, n => decide (n ≤ b)
  | .inf, _ => true

/-- What MODE_TABLE says of one mode (R8): its identifier in 0..255, `fbs(m)`, the schedule `sched(m, c)` for
`c = 0 .. cifs(m)-1` as the list of its values, and `cap(m)`. The number of CIFs per frame is the length of the
schedule, so the two cannot disagree (assumption log 11). -/
structure ModeRow where
  id : BitVec 8
  fbs : Nat
  sched : List Bool
  cap : Nat
  deriving DecidableEq, Repr, Inhabited

/-- `cifs(m)`: CIFs per transmission frame (R8). -/
def ModeRow.cifs (r : ModeRow) : Nat := r.sched.length

/-- The parameters of one hardware: MODE_TABLE as the list of its rows (R8), NSUB_MAX (R10), CAP_FIC, CAP_SUB (R11),
OUT_CAP (R12). They are "fixed for the life of the hardware" (R20). -/
structure Params where
  modes : List ModeRow
  nsubMax : Nat
  capFic : Capacity
  capSub : Capacity
  outCap : Capacity
  deriving DecidableEq, Repr, Inhabited

/-- The parameters of the hardware at hand. The spec leaves them open (U6 to U9: "parameter"), so this constant has
no body and nothing can be proved of its value. DESIGN CHOICE, assumption log 4. -/
opaque Config.hardware : Params

end Sys2Proof
end

