-- ==== Sys2Proof/Syntax.lean ====
section
/-! DEFINITION. The operations of the MUX (R76) as the rows of spec/opcode_table.json, one constructor a row, and the
agents that perform them (R17). -/
namespace Sys2Proof

/-- One atomic interface transaction (R7, R76). The operands are those of R79, each with the width of its field, so
every operand has every value its encoding admits and no other. RDSR is sixteen rows, one per legal register number
(R80). -/
inductive Instr where
  /-- RESET, format Z (R165). -/
  | reset
  /-- CFG_MODE `m`, format M (R101). -/
  | cfgMode (m : BitVec 8)
  /-- CFG_COUNT `n`, format C (R102). -/
  | cfgCount (n : BitVec 16)
  /-- CFG_SIZE `s`, format S; the 16-bit pattern of a two's-complement size (R103). -/
  | cfgSize (s : BitVec 16)
  /-- CFG_COMMIT, format Z (R104). -/
  | cfgCommit
  /-- PUSH `p, b`, format B (R115). -/
  | push (p : BitVec 8) (b : Byte)
  /-- EOS `p`, format E (R116). -/
  | eos (p : BitVec 8)
  /-- ASM, format Z (R132). -/
  | asm
  /-- POP, format Z (R155). -/
  | pop
  /-- RDSR STATE, register 0x00 (R38, R166). -/
  | rdsrState
  /-- RDSR ERR, register 0x01. -/
  | rdsrErr
  /-- RDSR MODE, register 0x02. -/
  | rdsrMode
  /-- RDSR COUNT, register 0x03. -/
  | rdsrCount
  /-- RDSR LISTLEN, register 0x04. -/
  | rdsrListlen
  /-- RDSR CIFCTR, register 0x05. -/
  | rdsrCifctr
  /-- RDSR FRMCTR, register 0x06. -/
  | rdsrFrmctr
  /-- RDSR OUTLVL, register 0x07. -/
  | rdsrOutlvl
  /-- RDSR STATUS, register 0x08. -/
  | rdsrStatus
  /-- RDSR CIFLEN, register 0x09. -/
  | rdsrCiflen
  /-- RDSR FRAMELEN, register 0x0A. -/
  | rdsrFramelen
  /-- RDSR LVL, `p`, register 0x10. -/
  | rdsrLvl (p : BitVec 8)
  /-- RDSR SLOT, `p`, register 0x11. -/
  | rdsrSlot (p : BitVec 8)
  /-- RDSR PFLAGS, `p`, register 0x12. -/
  | rdsrPflags (p : BitVec 8)
  /-- RDSR RESID, `p`, register 0x13. -/
  | rdsrResid (p : BitVec 8)
  /-- RDSR SIZE, `p`, register 0x14. -/
  | rdsrSize (p : BitVec 8)
  deriving DecidableEq, Repr

/-- The agents that perform operations (R17). `prod 0` is the FIC producer, `prod p` the producer of subchannel
`p - 1`. -/
inductive Agent where
  | host
  | prod (p : BitVec 8)
  | core
  | cons
  deriving DecidableEq, Repr

/-- The agent of an operation, "implied by the mnemonic" (R17, R91). The MUX does not check it (R192). -/
def Instr.agent : Instr → Agent
  | .reset => .host
  | .cfgMode _ => .host
  | .cfgCount _ => .host
  | .cfgSize _ => .host
  | .cfgCommit => .host
  | .push p _ => .prod p
  | .eos p => .prod p
  | .asm => .core
  | .pop => .cons
  | .rdsrState => .host
  | .rdsrErr => .host
  | .rdsrMode => .host
  | .rdsrCount => .host
  | .rdsrListlen => .host
  | .rdsrCifctr => .host
  | .rdsrFrmctr => .host
  | .rdsrOutlvl => .host
  | .rdsrStatus => .host
  | .rdsrCiflen => .host
  | .rdsrFramelen => .host
  | .rdsrLvl _ => .host
  | .rdsrSlot _ => .host
  | .rdsrPflags _ => .host
  | .rdsrResid _ => .host
  | .rdsrSize _ => .host

end Sys2Proof
end

