-- ==== Sys2Proof/WellFormed.lean ====
section
/-! DEFINITION. Well-formedness: the bounds a parameter choice must meet to be admitted (R8, R10, R11, R12) and the
operand ranges of an instruction (R79). -/
namespace Sys2Proof

/-- The bounds of R8 on one mode: `1 <= cifs <= 256`, `1 <= fbs <= 65535`, `1 <= cap <= 32767`. -/
abbrev ModeRow.InBounds (r : ModeRow) : Prop :=
  (1 ≤ r.cifs ∧ r.cifs ≤ 256) ∧ (1 ≤ r.fbs ∧ r.fbs ≤ 65535) ∧ (1 ≤ r.cap ∧ r.cap ≤ 32767)

/-- MODES is non-empty (R8). -/
abbrev Params.HasMode (P : Params) : Prop := P.modes ≠ []

/-- MODES is a set: no identifier has two rows (R8). -/
abbrev Params.IdsDistinct (P : Params) : Prop := (P.modes.map ModeRow.id).Nodup

/-- Every mode of the table is within the bounds of R8. -/
abbrev Params.RowsInBounds (P : Params) : Prop := ∀ r ∈ P.modes, r.InBounds

/-- `1 <= NSUB_MAX <= 255` (R10). -/
abbrev Params.NsubMaxInBounds (P : Params) : Prop := 1 ≤ P.nsubMax ∧ P.nsubMax ≤ 255

/-- `CAP_FIC >= max over m in MODES of fbs(m)` (R11). -/
abbrev Params.CapFicSuffices (P : Params) : Prop := ∀ r ∈ P.modes, P.capFic.holds r.fbs = true

/-- `CAP_SUB >= 8 * max over m in MODES of cap(m)` (R11). -/
abbrev Params.CapSubSuffices (P : Params) : Prop :=
  ∀ r ∈ P.modes, P.capSub.holds (Config.cuBytes * r.cap) = true

/-- `OUT_CAP >= 8 * max over m in MODES of cap(m)` (R12). -/
abbrev Params.OutCapSuffices (P : Params) : Prop :=
  ∀ r ∈ P.modes, P.outCap.holds (Config.cuBytes * r.cap) = true

/-- The parameter choices the spec admits: all the constraints of R8, R10, R11 and R12. -/
abbrev Params.Admissible (P : Params) : Prop :=
  P.HasMode ∧ P.IdsDistinct ∧ P.RowsInBounds ∧ P.NsubMaxInBounds ∧ P.CapFicSuffices ∧ P.CapSubSuffices ∧
    P.OutCapSuffices

/-- The smallest admissible choice, one mode without FIC and one subchannel. It stands only for a choice that is NOT
admitted. DESIGN CHOICE, assumption log 4. -/
def Params.minimal : Params :=
  { modes := [{ id := 0, fbs := 1, sched := [false], cap := 1 }]
    nsubMax := 1
    capFic := .inf
    capSub := .inf
    outCap := .inf }

/-- "A parameter choice that violates them is not admitted" (R11): an admissible choice is itself, any other is
replaced by `Params.minimal`. -/
def Params.admitted (P : Params) : Params := if P.Admissible then P else Params.minimal

/-- The operand ranges of R79. Every operand's type is the field of its encoding, so each range is exactly the values
of the type, and no ill-formed instruction can be written down. -/
abbrev Instr.WellFormed : Instr → Prop
  | .reset => True
  | .cfgMode m => m.toNat ≤ 255
  | .cfgCount n => n.toNat ≤ 65535
  | .cfgSize s => -32768 ≤ s.toInt ∧ s.toInt ≤ 32767
  | .cfgCommit => True
  | .push p b => p.toNat ≤ 255 ∧ b.toNat ≤ 255
  | .eos p => p.toNat ≤ 255
  | .asm => True
  | .pop => True
  | .rdsrState => True
  | .rdsrErr => True
  | .rdsrMode => True
  | .rdsrCount => True
  | .rdsrListlen => True
  | .rdsrCifctr => True
  | .rdsrFrmctr => True
  | .rdsrOutlvl => True
  | .rdsrStatus => True
  | .rdsrCiflen => True
  | .rdsrFramelen => True
  | .rdsrLvl p => p.toNat ≤ 255
  | .rdsrSlot p => p.toNat ≤ 255
  | .rdsrPflags p => p.toNat ≤ 255
  | .rdsrResid p => p.toNat ≤ 255
  | .rdsrSize p => p.toNat ≤ 255

end Sys2Proof
end

