-- ==== Sys2Proof/Decode.lean ====
section
/-! DEFINITION. The transaction word: the decoder (R77 to R81, R88), the encoder, and the opcode map of R80 as a list of
pattern and mask rows. -/
namespace Sys2Proof

/-- `op`, bits 31:28 (R77). -/
def fieldOp (w : Word) : BitVec 4 := w.extractLsb' 28 4

/-- `port`, bits 27:20 (R77). -/
def fieldPort (w : Word) : BitVec 8 := w.extractLsb' 20 8

/-- `rsv`, bits 19:16 (R77). -/
def fieldRsv (w : Word) : BitVec 4 := w.extractLsb' 16 4

/-- `opd`, bits 15:0 (R77). -/
def fieldOpd (w : Word) : BitVec 16 := w.extractLsb' 0 16

/-- `opd[15:8]` (R78). -/
def fieldOpdHi (w : Word) : BitVec 8 := w.extractLsb' 8 8

/-- `opd[7:0]` (R78). -/
def fieldOpdLo (w : Word) : BitVec 8 := w.extractLsb' 0 8

/-- RDSR in format G: the global registers 0x00 to 0x0A, whose `port` field is 0 (R78, R80). -/
def decodeGlobal (r : BitVec 8) : Option Instr :=
  match r.toNat with
  | 0x00 => some .rdsrState
  | 0x01 => some .rdsrErr
  | 0x02 => some .rdsrMode
  | 0x03 => some .rdsrCount
  | 0x04 => some .rdsrListlen
  | 0x05 => some .rdsrCifctr
  | 0x06 => some .rdsrFrmctr
  | 0x07 => some .rdsrOutlvl
  | 0x08 => some .rdsrStatus
  | 0x09 => some .rdsrCiflen
  | 0x0A => some .rdsrFramelen
  | _ => none

/-- RDSR in format Q: the per-port registers 0x10 to 0x14 (R78, R80). -/
def decodePerPort (r p : BitVec 8) : Option Instr :=
  match r.toNat with
  | 0x10 => some (.rdsrLvl p)
  | 0x11 => some (.rdsrSlot p)
  | 0x12 => some (.rdsrPflags p)
  | 0x13 => some (.rdsrResid p)
  | 0x14 => some (.rdsrSize p)
  | _ => none

/-- RDSR: `opd[15:8]` must be 0; a register number below 0x10 is format G and needs `port = 0`, any other is
format Q (R78, R81). -/
def decodeRdsr (w : Word) : Option Instr :=
  if fieldOpdHi w ≠ 0 then none
  else if (fieldOpdLo w).toNat < 0x10 then
    if fieldPort w = 0 then decodeGlobal (fieldOpdLo w) else none
  else decodePerPort (fieldOpdLo w) (fieldPort w)

/-- The decoder: total, `none` is "illegal" (R81); every word it refuses is reserved (R88). -/
def decode (w : Word) : Option Instr :=
  if fieldRsv w ≠ 0 then none
  else
    match (fieldOp w).toNat with
    | 0x1 => if fieldPort w = 0 ∧ fieldOpd w = 0 then some .reset else none
    | 0x2 => if fieldPort w = 0 ∧ fieldOpdHi w = 0 then some (.cfgMode (fieldOpdLo w)) else none
    | 0x3 => if fieldPort w = 0 then some (.cfgCount (fieldOpd w)) else none
    | 0x4 => if fieldPort w = 0 then some (.cfgSize (fieldOpd w)) else none
    | 0x5 => if fieldPort w = 0 ∧ fieldOpd w = 0 then some .cfgCommit else none
    | 0x6 => if fieldOpdHi w = 0 then some (.push (fieldPort w) (fieldOpdLo w)) else none
    | 0x7 => if fieldOpd w = 0 then some (.eos (fieldPort w)) else none
    | 0x8 => if fieldPort w = 0 ∧ fieldOpd w = 0 then some .asm else none
    | 0x9 => if fieldPort w = 0 ∧ fieldOpd w = 0 then some .pop else none
    | 0xA => decodeRdsr w
    | _ => none

/-- The format skeleton of every transaction word (R77): `op`, `port`, `rsv = 0`, `opd`. -/
def mkWord (op : BitVec 4) (port : BitVec 8) (opd : BitVec 16) : Word :=
  ((op ++ port) ++ (0#4)) ++ opd

/-- An 8-bit operand in `opd`, with `opd[15:8] = 0` (R78). -/
def opdByte (b : BitVec 8) : BitVec 16 := (0#8) ++ b

/-- The encoder, from the patterns of R80. -/
def encode : Instr → Word
  | .reset => mkWord 0x1 0 0
  | .cfgMode m => mkWord 0x2 0 (opdByte m)
  | .cfgCount n => mkWord 0x3 0 n
  | .cfgSize s => mkWord 0x4 0 s
  | .cfgCommit => mkWord 0x5 0 0
  | .push p b => mkWord 0x6 p (opdByte b)
  | .eos p => mkWord 0x7 p 0
  | .asm => mkWord 0x8 0 0
  | .pop => mkWord 0x9 0 0
  | .rdsrState => mkWord 0xA 0 (opdByte 0x00)
  | .rdsrErr => mkWord 0xA 0 (opdByte 0x01)
  | .rdsrMode => mkWord 0xA 0 (opdByte 0x02)
  | .rdsrCount => mkWord 0xA 0 (opdByte 0x03)
  | .rdsrListlen => mkWord 0xA 0 (opdByte 0x04)
  | .rdsrCifctr => mkWord 0xA 0 (opdByte 0x05)
  | .rdsrFrmctr => mkWord 0xA 0 (opdByte 0x06)
  | .rdsrOutlvl => mkWord 0xA 0 (opdByte 0x07)
  | .rdsrStatus => mkWord 0xA 0 (opdByte 0x08)
  | .rdsrCiflen => mkWord 0xA 0 (opdByte 0x09)
  | .rdsrFramelen => mkWord 0xA 0 (opdByte 0x0A)
  | .rdsrLvl p => mkWord 0xA p (opdByte 0x10)
  | .rdsrSlot p => mkWord 0xA p (opdByte 0x11)
  | .rdsrPflags p => mkWord 0xA p (opdByte 0x12)
  | .rdsrResid p => mkWord 0xA p (opdByte 0x13)
  | .rdsrSize p => mkWord 0xA p (opdByte 0x14)

/-- One row of the opcode map: `w` encodes the row iff `(w & mask) = pattern` (R80). -/
structure OpcodeRow where
  mnemonic : String
  pattern : Word
  mask : Word
  deriving DecidableEq, Repr

/-- `(w & mask) = match` (R80). -/
def OpcodeRow.encodes (r : OpcodeRow) (w : Word) : Bool := (w &&& r.mask) == r.pattern

/-- The opcode map of R80, with RDSR as sixteen rows. -/
def opcodeMap : List OpcodeRow :=
  [⟨"RESET", 0x10000000, 0xFFFFFFFF⟩,
   ⟨"CFG_MODE", 0x20000000, 0xFFFFFF00⟩,
   ⟨"CFG_COUNT", 0x30000000, 0xFFFF0000⟩,
   ⟨"CFG_SIZE", 0x40000000, 0xFFFF0000⟩,
   ⟨"CFG_COMMIT", 0x50000000, 0xFFFFFFFF⟩,
   ⟨"PUSH", 0x60000000, 0xF00FFF00⟩,
   ⟨"EOS", 0x70000000, 0xF00FFFFF⟩,
   ⟨"ASM", 0x80000000, 0xFFFFFFFF⟩,
   ⟨"POP", 0x90000000, 0xFFFFFFFF⟩,
   ⟨"RDSR_STATE", 0xA0000000, 0xFFFFFFFF⟩,
   ⟨"RDSR_ERR", 0xA0000001, 0xFFFFFFFF⟩,
   ⟨"RDSR_MODE", 0xA0000002, 0xFFFFFFFF⟩,
   ⟨"RDSR_COUNT", 0xA0000003, 0xFFFFFFFF⟩,
   ⟨"RDSR_LISTLEN", 0xA0000004, 0xFFFFFFFF⟩,
   ⟨"RDSR_CIFCTR", 0xA0000005, 0xFFFFFFFF⟩,
   ⟨"RDSR_FRMCTR", 0xA0000006, 0xFFFFFFFF⟩] ++
  [⟨"RDSR_OUTLVL", 0xA0000007, 0xFFFFFFFF⟩,
   ⟨"RDSR_STATUS", 0xA0000008, 0xFFFFFFFF⟩,
   ⟨"RDSR_CIFLEN", 0xA0000009, 0xFFFFFFFF⟩,
   ⟨"RDSR_FRAMELEN", 0xA000000A, 0xFFFFFFFF⟩,
   ⟨"RDSR_LVL", 0xA0000010, 0xF00FFFFF⟩,
   ⟨"RDSR_SLOT", 0xA0000011, 0xF00FFFFF⟩,
   ⟨"RDSR_PFLAGS", 0xA0000012, 0xF00FFFFF⟩,
   ⟨"RDSR_RESID", 0xA0000013, 0xF00FFFFF⟩,
   ⟨"RDSR_SIZE", 0xA0000014, 0xF00FFFFF⟩]

/-- The row of the opcode map an instruction belongs to, by its mnemonic (R80). -/
def Instr.mnemonic : Instr → String
  | .reset => "RESET"
  | .cfgMode _ => "CFG_MODE"
  | .cfgCount _ => "CFG_COUNT"
  | .cfgSize _ => "CFG_SIZE"
  | .cfgCommit => "CFG_COMMIT"
  | .push _ _ => "PUSH"
  | .eos _ => "EOS"
  | .asm => "ASM"
  | .pop => "POP"
  | .rdsrState => "RDSR_STATE"
  | .rdsrErr => "RDSR_ERR"
  | .rdsrMode => "RDSR_MODE"
  | .rdsrCount => "RDSR_COUNT"
  | .rdsrListlen => "RDSR_LISTLEN"
  | .rdsrCifctr => "RDSR_CIFCTR"
  | .rdsrFrmctr => "RDSR_FRMCTR"
  | .rdsrOutlvl => "RDSR_OUTLVL"
  | .rdsrStatus => "RDSR_STATUS"
  | .rdsrCiflen => "RDSR_CIFLEN"
  | .rdsrFramelen => "RDSR_FRAMELEN"
  | .rdsrLvl _ => "RDSR_LVL"
  | .rdsrSlot _ => "RDSR_SLOT"
  | .rdsrPflags _ => "RDSR_PFLAGS"
  | .rdsrResid _ => "RDSR_RESID"
  | .rdsrSize _ => "RDSR_SIZE"

/-- The transaction word whose low `nbits` bits are those of `w` and whose other bits are 0. A transaction word "is
transferred whole; it has no byte order" (R75). -/
def tableWord (nbits w : Nat) : Word := BitVec.ofNat 32 (w % 2 ^ min nbits 32)

/-- The instruction the decoder reads from an instruction whose bits are `w`, `nbits` of them. -/
def decodeTableWord (nbits w : Nat) : Option Instr := decode (tableWord nbits w)

end Sys2Proof
end

