-- ==== Sys2Proof/Machine/State.lean ====
section
/-! DEFINITION. The architectural state of the MUX (R20 to R34) as plain data, its reset value (R40), and the reasons a
step can have no next state. -/
namespace Sys2Proof.Machine

/-- LIFE, the lifecycle state (R21). -/
inductive Life where
  /-- IDLE: no multiplexer is constructed. -/
  | idle
  /-- RUN: constructed with a valid, immutable configuration. -/
  | run
  /-- END: the output stream has ended. -/
  | ended
  /-- CFGERR: construction failed. -/
  | cfgErr
  deriving DecidableEq, Repr, Inhabited

/-- The causes of ConfigurationError (R176). -/
inductive ConfigError where
  | modeInvalid
  | countMismatch
  | countRange
  | sizeNonpositive
  | capacityExceeded
  deriving DecidableEq, Repr

/-- The state of one input port `p`: FIFO[p] (R27, head first), EOSF[p] (R28), RESID[p] and PREM[p] (R34). The default
is its state after RESET (R40). -/
structure Port where
  fifo : List Byte := []
  eosf : Bool := false
  resid : BitVec 32 := 0
  prem : Bool := false
  deriving DecidableEq, Repr, Inhabited

/-- What an operation returns to its agent: POP a byte, RDSR a 32-bit value (R90). -/
inductive Response where
  | byte (b : Byte)
  | word (v : Word)
  deriving DecidableEq, Repr

/-- The state of the MUX: the tuple of R20, and three fields of the model's own, `hw`, `trace` and `response`.
`ports` holds ports `0 .. NSUB_MAX` and `sizes` holds `SIZE[0 .. NSUB_MAX-1]`, in order. -/
structure State where
  /-- The parameters, fixed for the life of the hardware (R20). The model's own field (assumption log 4). -/
  hw : Params
  /-- LIFE (R21). -/
  life : Life
  /-- MODE (R22). -/
  mode : BitVec 8
  /-- COUNT (R23). -/
  count : BitVec 16
  /-- LISTLEN (R24). -/
  listLen : BitVec 16
  /-- SIZE[0 .. NSUB_MAX-1], 16-bit two's-complement patterns (R25). -/
  sizes : List (BitVec 16)
  /-- FIFO, EOSF, RESID and PREM of ports 0 .. NSUB_MAX (R27, R28, R34). -/
  ports : List Port
  /-- OUT, head first (R29). -/
  out : List Byte
  /-- CIFCTR (R30). -/
  cifctr : BitVec 8
  /-- FRMCTR (R31). -/
  frmctr : BitVec 32
  /-- ERR (R32). -/
  err : BitVec 3
  /-- What the last operation performed returned to its agent (R90). The model's own field (assumption log 3). -/
  response : Option Response
  /-- The transaction words still to be performed, in the total order of R62. The model's own field
  (assumption log 1). -/
  trace : List Word
  deriving DecidableEq, Repr

/-- Why an operation has no step. A held operation changes nothing: "the agent that offers it is held and no state
changes" (R15), and the treatment is "stuck: no step, not a stutter step" (U4). None of these is an error of the
MUX, whose error taxonomy is closed (R175). All are safe: the model stops where the agent waits
(assumption log 2). -/
inductive Fault where
  /-- `step`: no transaction word is left in the trace, so no operation is performed (log 1). Safe. -/
  | noOperation
  /-- PUSH, EOS or ASM while LIFE is not RUN (R115, R116, R132). Safe. -/
  | heldNotRunning
  /-- PUSH or EOS on a port above N (R115, R116). Safe. -/
  | heldNoPort
  /-- PUSH on a port whose EOSF is set (R115). Safe. -/
  | heldEnded
  /-- PUSH on a port whose FIFO is full (R115). Safe. -/
  | heldFull
  /-- ASM with outcome STALL because a port is starved and no starved port has ended (R131, R138). Safe. -/
  | heldStarved
  /-- ASM with outcome STALL because OUT has no room for the whole CIF (R131, R158). Safe. -/
  | heldNoRoom
  /-- POP while OUT is empty (R155). Safe. -/
  | heldEmpty
  deriving DecidableEq, Repr

/-- Why a transaction word is not performed at all. -/
inductive Refusal where
  /-- `exec`: an instruction without a meaning in the model. No arm answers it. Safe. -/
  | notModelled (mnemonic : String)
  /-- `step`: a reserved transaction word, which "performs no operation"; "a model must treat a trace that contains a
  reserved TW as refused" (R88, U2; assumption log 7). Safe. -/
  | reserved (w : Word)
  deriving DecidableEq, Repr

/-- The state after RESET of a hardware with parameters `P` (R40), with nothing left to perform. -/
def State.resetWith (P : Params) : State :=
  { hw := P
    life := .idle
    mode := 0
    count := 0
    listLen := 0
    sizes := List.replicate P.nsubMax 0
    ports := List.replicate (P.nsubMax + 1) {}
    out := []
    cifctr := 0
    frmctr := 0
    err := 0
    response := none
    trace := [] }

/-- The machine right after reset (R40, R206), for the hardware at hand, whose parameters are open
(assumption log 4). -/
def State.reset : State := State.resetWith Config.hardware.admitted

end Sys2Proof.Machine
end

