-- ==== Sys2Proof/Machine/Operands.lean ====
section
/-! DEFINITION. What the operations read: MODE_TABLE lookups (R8), the codes of LIFE and ERR (R21, R176), the registers
and FIFOs of a port (R15), and the derived functions of R9 (`has_fic`, `fic_cu`, `uniform`, `slot`, `need`, `cif_len`,
`off`, `frame_len`). All are total functions (R9). For an argument to which R8 and
R9 give no value they answer 0 or false, and `uniform` of a mode outside MODES answers true: the model's own choice,
assumption log 8. -/
namespace Sys2Proof

/-- The row of mode `m`, if `m` is in MODES (R8). -/
def Params.row (P : Params) (m : BitVec 8) : Option ModeRow := P.modes.find? (fun r => r.id == m)

/-- `m` is in MODES (R8, R105). -/
def Params.isMode (P : Params) (m : BitVec 8) : Bool := (P.row m).isSome

/-- `cifs(m)` (R8); 0 for `m` outside MODES (assumption log 8). -/
def Params.cifs (P : Params) (m : BitVec 8) : Nat := ((P.row m).map ModeRow.cifs).getD 0

/-- `fbs(m)` (R8); 0 for `m` outside MODES (assumption log 8). -/
def Params.fbs (P : Params) (m : BitVec 8) : Nat := ((P.row m).map ModeRow.fbs).getD 0

/-- `sched(m, c)` (R8); false for `m` outside MODES and for `c >= cifs(m)` (assumption log 8). -/
def Params.sched (P : Params) (m : BitVec 8) (c : Nat) : Bool :=
  ((P.row m).map (fun r => r.sched.getD c false)).getD false

/-- `cap(m)` (R8); 0 for `m` outside MODES (assumption log 8). -/
def Params.cap (P : Params) (m : BitVec 8) : Nat := ((P.row m).map ModeRow.cap).getD 0

/-- `has_fic(m)` (R9). For `m` outside MODES, where R9 gives no value, it answers false (assumption log 8). -/
def Params.hasFic (P : Params) (m : BitVec 8) : Bool := (List.range (P.cifs m)).any (fun c => P.sched m c)

/-- `fic_cu(m) = if has_fic(m) then ceil(fbs(m) / 8) else 0` (R9). -/
def Params.ficCu (P : Params) (m : BitVec 8) : Nat :=
  if P.hasFic m then (P.fbs m + (Config.cuBytes - 1)) / Config.cuBytes else 0

/-- `uniform(m)`: the schedule is the same at every CIF index (R9). DEDUCED for `m` outside MODES, where R8 and R9 give no
value: `cifs` is 0 there, R9's condition ranges over no CIF index, and the model answers true (assumption log 8). -/
def Params.uniform (P : Params) (m : BitVec 8) : Bool :=
  (List.range (P.cifs m)).all (fun c => (List.range (P.cifs m)).all (fun d => P.sched m c == P.sched m d))

/-- `min(n, 2^32 - 1)` as a 32-bit value: the saturation of RESID, LVL and OUTLVL (R34, R38, R219). -/
def saturate32 (n : Nat) : Word := BitVec.ofNat 32 (min n (2 ^ 32 - 1))

namespace Machine

/-- The 2-bit code of LIFE (R21). -/
def Life.code : Life → BitVec 2
  | .idle => 0
  | .run => 1
  | .ended => 2
  | .cfgErr => 3

/-- The code a cause is recorded with in ERR (R32, R176). -/
def ConfigError.code : ConfigError → BitVec 3
  | .modeInvalid => 1
  | .countMismatch => 2
  | .countRange => 3
  | .sizeNonpositive => 4
  | .capacityExceeded => 5

/-- The state of port `p`; a port above NSUB_MAX does not exist and reads as a port after RESET
(assumption log 5). -/
def State.port (s : State) (p : Nat) : Port := s.ports.getD p {}

/-- FIFO[p] (R27). -/
def State.fifo (s : State) (p : Nat) : List Byte := (s.port p).fifo

/-- EOSF[p] (R28). -/
def State.eosf (s : State) (p : Nat) : Bool := (s.port p).eosf

/-- RESID[p] (R34). -/
def State.resid (s : State) (p : Nat) : BitVec 32 := (s.port p).resid

/-- PREM[p] (R34). -/
def State.prem (s : State) (p : Nat) : Bool := (s.port p).prem

/-- The 16-bit pattern in SIZE[i] (R25). -/
def State.sizeReg (s : State) (i : Nat) : BitVec 16 := s.sizes.getD i 0

/-- `N = COUNT` (R9, R26). -/
def State.numSub (s : State) : Nat := s.count.toNat

/-- The port numbers `0 .. N` in ascending order (R132). -/
def State.portNumbers (s : State) : List Nat := List.range (s.numSub + 1)

/-- Port `p` exists: `LIFE in {RUN, END}` and `0 <= p <= N` (R26). -/
def State.portExists (s : State) (p : Nat) : Bool :=
  (s.life == .run || s.life == .ended) && decide (p ≤ s.numSub)

/-- `cap_of(p)` (R11). -/
def State.capOf (s : State) (p : Nat) : Capacity := if p = 0 then s.hw.capFic else s.hw.capSub

/-- `slot(p)`: `fbs(MODE)` for the FIC port, `8 * SIZE[p-1]` for `1 <= p <= N` (R9). -/
def State.slot (s : State) (p : Nat) : Nat :=
  if p = 0 then s.hw.fbs s.mode
  else if p ≤ s.numSub then Config.cuBytes * (s.sizeReg (p - 1)).toInt.toNat
  else 0

/-- `need(p, c)`: the bytes port `p` contributes to the CIF with index `c` (R9, R126, R127). -/
def State.need (s : State) (p c : Nat) : Nat :=
  if p = 0 then (if s.hw.sched s.mode c then s.hw.fbs s.mode else 0) else s.slot p

/-- `cif_len(c) = sum over p in 0..N of need(p, c)` (R9). -/
def State.cifLen (s : State) (c : Nat) : Nat := (s.portNumbers.map (fun p => s.need p c)).sum

/-- `off(p, c) = sum over q in 0..p-1 of need(q, c)` (R9). -/
def State.off (s : State) (p c : Nat) : Nat := ((List.range p).map (fun q => s.need q c)).sum

/-- `cifs(MODE)`. -/
def State.cifsPerFrame (s : State) : Nat := s.hw.cifs s.mode

/-- `frame_len = sum over c in 0..cifs(MODE)-1 of cif_len(c)` (R9). -/
def State.frameLen (s : State) : Nat := ((List.range s.cifsPerFrame).map (fun c => s.cifLen c)).sum

end Machine
end Sys2Proof
end

