-- ==== Sys2Proof/Machine/Flags.lean ====
section
/-! DEFINITION. The predicates of the slot scheduler (R128 to R131), the derived status predicates (R35), and the words
STATUS (R36) and PFLAGS (R38). The MUX has no condition codes (R37). -/
namespace Sys2Proof.Machine

/-- `starved(p)`: in RUN, a port `p <= N` with fewer bytes than the current CIF needs; false in every other state
(R128). -/
def State.starved (s : State) (p : Nat) : Bool :=
  s.life == .run && decide (p ≤ s.numSub) && decide ((s.fifo p).length < s.need p s.cifctr.toNat)

/-- `avail_all`: no port `0..N` is starved (R128). -/
def State.availAll (s : State) : Bool := s.portNumbers.all (fun p => !s.starved p)

/-- `room`: `OUT_CAP - len(OUT) >= cif_len(CIFCTR)` (R129). -/
def State.room (s : State) : Bool := s.hw.outCap.holds (s.out.length + s.cifLen s.cifctr.toNat)

/-- `end_cond`: in RUN, some port `0..N` is starved and has signalled completion (R130). -/
def State.endCond (s : State) : Bool :=
  s.life == .run && s.portNumbers.any (fun p => s.starved p && s.eosf p)

/-- The three outcomes of ASM in state RUN (R131). -/
inductive AsmOutcome where
  | emit
  | endOfStream
  | stall
  deriving DecidableEq, Repr

/-- The outcome of ASM, decided in the order EMIT, END, STALL (R131). -/
def State.asmOutcome (s : State) : AsmOutcome :=
  if s.availAll && s.room then .emit
  else if s.endCond then .endOfStream
  else .stall

/-- `emit_ok = (LIFE = RUN) and avail_all and room` (R131). -/
def State.emitOk (s : State) : Bool := s.life == .run && s.availAll && s.room

/-- CONFIGURED (R35). -/
def State.configured (s : State) : Bool := s.life == .run || s.life == .ended

/-- CFG_ERROR (R35). -/
def State.cfgError (s : State) : Bool := s.life == .cfgErr

/-- ENDED (R35). -/
def State.hasEnded (s : State) : Bool := s.life == .ended

/-- OUT_EOS (R35, R157). -/
def State.outEos (s : State) : Bool := s.life == .ended && s.out.isEmpty

/-- STALL: StarvationStall (R35, R180). -/
def State.stalled (s : State) : Bool := s.life == .run && !s.availAll && !s.endCond

/-- OUT_BLOCKED: all ports ready, no room in OUT (R35). -/
def State.outBlocked (s : State) : Bool := s.life == .run && s.availAll && !s.room

/-- PREMATURE_ANY: some PREM[p] is 1 (R35). -/
def State.prematureAny (s : State) : Bool := s.ports.any (fun q => q.prem)

/-- OUT_VALID: a byte is available to the consumer (R35). -/
def State.outValid (s : State) : Bool := !s.out.isEmpty

/-- STATUS: bits 31:8 zero, then OUT_VALID, PREMATURE_ANY, OUT_BLOCKED, STALL, OUT_EOS, ENDED, CFG_ERROR, CONFIGURED
from bit 7 down to bit 0 (R36). -/
def State.statusWord (s : State) : Word :=
  (0#24) ++ BitVec.ofBool s.outValid ++ BitVec.ofBool s.prematureAny ++ BitVec.ofBool s.outBlocked ++
    BitVec.ofBool s.stalled ++ BitVec.ofBool s.outEos ++ BitVec.ofBool s.hasEnded ++
    BitVec.ofBool s.cfgError ++ BitVec.ofBool s.configured

/-- PFLAGS[p]: bit 3 PREM[p], bit 2 STARVED(p), bit 1 EOSF[p], bit 0 EXISTS(p), the rest zero; all zero if
`p > NSUB_MAX` (R38). -/
def State.pflagsWord (s : State) (p : Nat) : Word :=
  if p ≤ s.hw.nsubMax then
    (0#28) ++ BitVec.ofBool (s.prem p) ++ BitVec.ofBool (s.starved p) ++ BitVec.ofBool (s.eosf p) ++
      BitVec.ofBool (s.portExists p)
  else 0

/-- A port FIFO has space for one more byte: `len(FIFO[p]) < cap_of(p)` (R115). -/
def State.hasSpace (s : State) (p : Nat) : Bool := (s.capOf p).holds ((s.fifo p).length + 1)

end Sys2Proof.Machine
end

