-- ==== Sys2Proof/Machine/Ops.lean ====
section
/-! DEFINITION. The named operations over the state (R15): MemRead and MemWrite on a FIFO, writes to ports, to the size
list and to the schedule pointer, taking a ConfigurationError (R178), the END transition (R137), RESET (R165),
and fetching the next transaction word. -/
namespace Sys2Proof.Machine

/-- `MemWrite(Q, n, v)`: append the bytes `v`, first byte first, at the tail (R15). -/
def memWrite (q v : List Byte) : List Byte := q ++ v

/-- `MemRead(Q, n)`: the `n` bytes at the head, head byte first, and the queue without them (R15). -/
def memRead (q : List Byte) (n : Nat) : List Byte × List Byte := (q.take n, q.drop n)

/-- Replace the state of port `p`. -/
def State.setPort (s : State) (p : Nat) (q : Port) : State := { s with ports := s.ports.set p q }

/-- Change the state of every port, given its number. -/
def State.mapPorts (s : State) (f : Nat → Port → Port) : State := { s with ports := s.ports.mapIdx f }

/-- `SIZE[i] <- v` (R25). -/
def State.setSize (s : State) (i : Nat) (v : BitVec 16) : State := { s with sizes := s.sizes.set i v }

/-- `pc <- (f, c)`: `FRMCTR <- f; CIFCTR <- c` (R15, R33). -/
def State.setPc (s : State) (f : BitVec 32) (c : BitVec 8) : State := { s with frmctr := f, cifctr := c }

/-- The operation returns `v` to its agent (R90). -/
def State.respond (s : State) (v : Response) : State := { s with response := some v }

/-- The operation returns nothing (R90). -/
def State.silent (s : State) : State := { s with response := none }

/-- `raise ConfigurationError(code)`: `LIFE <- CFGERR; ERR <- code`, nothing else changes (R178). -/
def State.raiseConfigurationError (s : State) (e : ConfigError) : State :=
  { s with life := .cfgErr, err := e.code }

/-- What the END transition does to port `p`: a port that has signalled completion records and loses its residual, any
other keeps everything (R137). -/
def State.endPort (s : State) (p : Nat) (q : Port) : Port :=
  if p ≤ s.numSub ∧ q.eosf = true then
    { q with
      resid := saturate32 q.fifo.length
      prem := decide (q.fifo.length % s.slot p ≠ 0)
      fifo := [] }
  else q

/-- `raise EndOfStream`, the END transition: the residuals of the ended ports are discarded and reported, `LIFE <- END`,
nothing else changes (R137, R181). -/
def State.raiseEndOfStream (s : State) : State := { s.mapPorts s.endPort with life := .ended }

/-- RESET: every piece of the spec's state gets its reset value (R40, R165). The hardware's parameters are not state,
and the words still to be performed are outside the MUX (assumption log 1). -/
def State.resetAll (s : State) : State := { State.resetWith s.hw with trace := s.trace }

/-- The next operation in the total order (R62): the first word of the trace, and the state from which it is
performed. -/
def State.fetch (s : State) : Option (Word × State) :=
  match s.trace with
  | [] => none
  | w :: rest => some (w, { s with trace := rest })

end Sys2Proof.Machine
end

