-- ==== Sys2Proof/Machine/Assembly.lean ====
section
/-! DEFINITION. CIF assembly: ASM, its EMIT step and the counter advance (R132 to R139). The END transition is
`State.raiseEndOfStream`. -/
namespace Sys2Proof.Machine

/-- Port `p`'s slice of the CIF with index `c`: the first `need(p, c)` bytes of FIFO[p] (R132, R134). -/
def State.slice (s : State) (p c : Nat) : List Byte := (memRead (s.fifo p) (s.need p c)).1

/-- The CIF with index `c`: the slices of ports `0, 1, ..., N` in this order (R132, R134). -/
def State.assembled (s : State) (c : Nat) : List Byte := s.portNumbers.flatMap (fun p => s.slice p c)

/-- Port `p` after its slice has been taken; a port above N gives nothing (R135). -/
def State.drainPort (s : State) (c p : Nat) (q : Port) : Port :=
  if p ≤ s.numSub then { q with fifo := (memRead q.fifo (s.need p c)).2 } else q

/-- CIFCTR after an EMIT of CIF index CIFCTR: `(c + 1) mod cifs(MODE)` (R136). -/
def State.nextCif (s : State) : BitVec 8 :=
  if s.cifctr.toNat + 1 < s.cifsPerFrame then s.cifctr + 1 else 0

/-- FRMCTR after an EMIT: advanced modulo 2^32 when CIFCTR wraps, else unchanged (R136). -/
def State.nextFrame (s : State) : BitVec 32 :=
  if s.cifctr.toNat + 1 < s.cifsPerFrame then s.frmctr else s.frmctr + 1

/-- EMIT: every port loses its slice, OUT gains the whole CIF, the schedule pointer advances by one CIF (R132,
R135). -/
def State.emit (s : State) : State :=
  let c := s.cifctr.toNat
  ({ s.mapPorts (s.drainPort c) with out := memWrite s.out (s.assembled c) }).setPc s.nextFrame s.nextCif

/-- Why ASM is held when its outcome is STALL: for lack of room, or for a starved port (R131, R132). -/
def State.stallReason (s : State) : Fault := if s.availAll then .heldNoRoom else .heldStarved

/-- ASM: try to assemble and emit one CIF; no step when `LIFE` is not RUN or the outcome is STALL (R132). -/
def execAsm (s : State) : Host.Outcome State Fault Refusal :=
  if s.life ≠ .run then .fault .heldNotRunning
  else
    match s.asmOutcome with
    | .emit => .next s.emit.silent
    | .endOfStream => .next s.raiseEndOfStream.silent
    | .stall => .fault s.stallReason

end Sys2Proof.Machine
end

