-- ==== Sys2Proof/Machine/Configuration.lean ====
section
/-! DEFINITION. The construction contract: CFG_MODE, CFG_COUNT, CFG_SIZE, CFG_COMMIT (R100 to R112). Outside IDLE each is
performed and changes nothing (R100; assumption log 6). -/
namespace Sys2Proof.Machine

/-- CFG_MODE `m`: `if LIFE = IDLE then MODE <- m` (R101). -/
def execCfgMode (m : BitVec 8) (s : State) : Host.Outcome State Fault Refusal :=
  .next (if s.life = .idle then { s with mode := m }.silent else s.silent)

/-- CFG_COUNT `n`: `if LIFE = IDLE then COUNT <- n` (R102). -/
def execCfgCount (n : BitVec 16) (s : State) : Host.Outcome State Fault Refusal :=
  .next (if s.life = .idle then { s with count := n }.silent else s.silent)

/-- `LISTLEN <- min(LISTLEN + 1, 65535)`, saturating (R24, R103). -/
def bumpListLen (l : BitVec 16) : BitVec 16 := BitVec.ofNat 16 (min (l.toNat + 1) 65535)

/-- Append one size to the size list: stored at SIZE[LISTLEN] if `LISTLEN < NSUB_MAX`, and counted in any case
(R103). -/
def State.appendSize (s : State) (v : BitVec 16) : State :=
  { (if s.listLen.toNat < s.hw.nsubMax then s.setSize s.listLen.toNat v else s) with
    listLen := bumpListLen s.listLen }

/-- CFG_SIZE `v`: append one `size_in_CUs` to the ordered size list (R103). -/
def execCfgSize (v : BitVec 16) (s : State) : Host.Outcome State Fault Refusal :=
  .next (if s.life = .idle then (s.appendSize v).silent else s.silent)

/-- Check 4: some `i < COUNT` has `signed16(SIZE[i]) <= 0` (R108). -/
def State.someSizeNonpositive (s : State) : Bool :=
  (List.range s.numSub).any (fun i => decide ((s.sizeReg i).toInt ≤ 0))

/-- The total allocated CUs `fic_cu(MODE) + SIZE[0] + ... + SIZE[COUNT-1]`, on mathematical integers
(R109, R111). -/
def State.allocatedCUs (s : State) : Int :=
  (s.hw.ficCu s.mode : Int) + ((List.range s.numSub).map (fun i => (s.sizeReg i).toInt)).sum

/-- The first failing check of the construction contract, in the order 1 to 5 (R104, R179). -/
def State.configFailure (s : State) : Option ConfigError :=
  if s.hw.isMode s.mode = false then some .modeInvalid
  else if s.count ≠ s.listLen then some .countMismatch
  else if s.numSub = 0 ∨ s.hw.nsubMax < s.numSub then some .countRange
  else if s.someSizeNonpositive then some .sizeNonpositive
  else if (s.hw.cap s.mode : Int) < s.allocatedCUs then some .capacityExceeded
  else none

/-- Validate and construct: `LIFE <- RUN`, or the ConfigurationError of the first failing check (R104, R110). -/
def State.construct (s : State) : State :=
  match s.configFailure with
  | some e => s.raiseConfigurationError e
  | none => { s with life := .run }

/-- CFG_COMMIT: validate the configuration once and construct the multiplexer (R104). -/
def execCfgCommit (s : State) : Host.Outcome State Fault Refusal :=
  .next (if s.life = .idle then s.construct.silent else s.silent)

end Sys2Proof.Machine
end

