-- ==== Sys2Proof/Machine/Output.lean ====
section
/-! DEFINITION. The consumer's side of the output port: POP (R155 to R158). -/
namespace Sys2Proof.Machine

/-- POP: remove and return the head byte of OUT; held when OUT is empty, in any `LIFE` (R155). -/
def execPop (s : State) : Host.Outcome State Fault Refusal :=
  match s.out with
  | [] => .fault .heldEmpty
  | b :: _ => .next ({ s with out := (memRead s.out 1).2 }.respond (.byte b))

end Sys2Proof.Machine
end

