-- ==== Sys2Proof/Machine/StreamInput.lean ====
section
/-! DEFINITION. The producers' side of the input ports: PUSH and EOS (R115 to R119). -/
namespace Sys2Proof.Machine

/-- Append one byte at the tail of FIFO[p] (R115). -/
def State.pushByte (s : State) (p : Nat) (b : Byte) : State :=
  s.setPort p { s.port p with fifo := memWrite (s.fifo p) [b] }

/-- PUSH `p, b`: enabled iff `LIFE = RUN`, `p <= N`, `EOSF[p] = 0` and FIFO[p] is not full; else the producer is held
(R115). -/
def execPush (p : BitVec 8) (b : Byte) (s : State) : Host.Outcome State Fault Refusal :=
  if s.life ≠ .run then .fault .heldNotRunning
  else if s.numSub < p.toNat then .fault .heldNoPort
  else if s.eosf p.toNat then .fault .heldEnded
  else if s.hasSpace p.toNat then .next (s.pushByte p.toNat b).silent
  else .fault .heldFull

/-- `EOSF[p] <- 1` (R116). -/
def State.setEos (s : State) (p : Nat) : State := s.setPort p { s.port p with eosf := true }

/-- EOS `p`: enabled iff `LIFE = RUN` and `p <= N`; else the agent is held (R116). -/
def execEos (p : BitVec 8) (s : State) : Host.Outcome State Fault Refusal :=
  if s.life ≠ .run then .fault .heldNotRunning
  else if s.numSub < p.toNat then .fault .heldNoPort
  else .next (s.setEos p.toNat).silent

end Sys2Proof.Machine
end

