-- ==== Sys2Proof/Machine/StatusRegs.lean ====
section
/-! DEFINITION. The status-register space: `MemRead(SR, r, p)`, the value column of R38, one definition per register. -/
namespace Sys2Proof.Machine

/-- 0x00 STATE: the code of LIFE (R21, R38). -/
def State.srState (s : State) : Word := s.life.code.setWidth 32

/-- 0x01 ERR (R32, R38). -/
def State.srErr (s : State) : Word := s.err.setWidth 32

/-- 0x02 MODE (R38). -/
def State.srMode (s : State) : Word := s.mode.setWidth 32

/-- 0x03 COUNT (R38). -/
def State.srCount (s : State) : Word := s.count.setWidth 32

/-- 0x04 LISTLEN (R38). -/
def State.srListlen (s : State) : Word := s.listLen.setWidth 32

/-- 0x05 CIFCTR (R38). -/
def State.srCifctr (s : State) : Word := s.cifctr.setWidth 32

/-- 0x06 FRMCTR (R38). -/
def State.srFrmctr (s : State) : Word := s.frmctr

/-- 0x07 OUTLVL: `min(len(OUT), 2^32 - 1)` (R38). -/
def State.srOutlvl (s : State) : Word := saturate32 s.out.length

/-- 0x08 STATUS (R36, R38). -/
def State.srStatus (s : State) : Word := s.statusWord

/-- 0x09 CIFLEN: `cif_len(CIFCTR)` in RUN and END, else 0 (R38; width, assumption log 14). -/
def State.srCiflen (s : State) : Word :=
  if s.configured then BitVec.ofNat 32 (s.cifLen s.cifctr.toNat) else 0

/-- 0x0A FRAMELEN: `frame_len` in RUN and END, else 0 (R38; width, assumption log 14). -/
def State.srFramelen (s : State) : Word := if s.configured then BitVec.ofNat 32 s.frameLen else 0

/-- 0x10 LVL[p]: `min(len(FIFO[p]), 2^32 - 1)` if `p <= NSUB_MAX`, else 0 (R38). -/
def State.srLvl (s : State) (p : Nat) : Word :=
  if p ≤ s.hw.nsubMax then saturate32 (s.fifo p).length else 0

/-- 0x11 SLOT[p]: `slot(p)` if port `p` exists, else 0 (R38; width, assumption log 14). -/
def State.srSlot (s : State) (p : Nat) : Word := if s.portExists p then BitVec.ofNat 32 (s.slot p) else 0

/-- 0x12 PFLAGS[p] (R38). -/
def State.srPflags (s : State) (p : Nat) : Word := s.pflagsWord p

/-- 0x13 RESID[p] if `p <= NSUB_MAX`, else 0 (R38). -/
def State.srResid (s : State) (p : Nat) : Word := if p ≤ s.hw.nsubMax then s.resid p else 0

/-- 0x14 SIZE[p]: for `p = 0`, `fic_cu(MODE)` if `LIFE != IDLE` and `MODE in MODES`, else 0; for
`1 <= p <= NSUB_MAX`, SIZE[p-1] sign-extended; else 0 (R38). -/
def State.srSize (s : State) (p : Nat) : Word :=
  if p = 0 then
    if s.life ≠ .idle ∧ s.hw.isMode s.mode = true then BitVec.ofNat 32 (s.hw.ficCu s.mode) else 0
  else if p ≤ s.hw.nsubMax then (s.sizeReg (p - 1)).signExtend 32
  else 0

end Sys2Proof.Machine
end

