-- ==== Sys2Proof/Machine/System.lean ====
section
/-! DEFINITION. The system operations: RESET (R165) and the sixteen rows of RDSR (R166). RDSR is always enabled, returns
the value column of R38 and changes no state of the MUX. -/
namespace Sys2Proof.Machine

/-- RESET: destroy the instance, always enabled (R165). -/
def execReset (s : State) : Host.Outcome State Fault Refusal := .next s.resetAll

/-- RDSR STATE: return register 0x00 STATE (R38, R166). -/
def execRdsrState (s : State) : Host.Outcome State Fault Refusal :=
  .next (s.respond (.word s.srState))

/-- RDSR ERR: return register 0x01 ERR (R38, R166). -/
def execRdsrErr (s : State) : Host.Outcome State Fault Refusal :=
  .next (s.respond (.word s.srErr))

/-- RDSR MODE: return register 0x02 MODE (R38, R166). -/
def execRdsrMode (s : State) : Host.Outcome State Fault Refusal :=
  .next (s.respond (.word s.srMode))

/-- RDSR COUNT: return register 0x03 COUNT (R38, R166). -/
def execRdsrCount (s : State) : Host.Outcome State Fault Refusal :=
  .next (s.respond (.word s.srCount))

/-- RDSR LISTLEN: return register 0x04 LISTLEN (R38, R166). -/
def execRdsrListlen (s : State) : Host.Outcome State Fault Refusal :=
  .next (s.respond (.word s.srListlen))

/-- RDSR CIFCTR: return register 0x05 CIFCTR (R38, R166). -/
def execRdsrCifctr (s : State) : Host.Outcome State Fault Refusal :=
  .next (s.respond (.word s.srCifctr))

/-- RDSR FRMCTR: return register 0x06 FRMCTR (R38, R166). -/
def execRdsrFrmctr (s : State) : Host.Outcome State Fault Refusal :=
  .next (s.respond (.word s.srFrmctr))

/-- RDSR OUTLVL: return register 0x07 OUTLVL (R38, R166). -/
def execRdsrOutlvl (s : State) : Host.Outcome State Fault Refusal :=
  .next (s.respond (.word s.srOutlvl))

/-- RDSR STATUS: return register 0x08 STATUS (R38, R166). -/
def execRdsrStatus (s : State) : Host.Outcome State Fault Refusal :=
  .next (s.respond (.word s.srStatus))

/-- RDSR CIFLEN: return register 0x09 CIFLEN (R38, R166). -/
def execRdsrCiflen (s : State) : Host.Outcome State Fault Refusal :=
  .next (s.respond (.word s.srCiflen))

/-- RDSR FRAMELEN: return register 0x0A FRAMELEN (R38, R166). -/
def execRdsrFramelen (s : State) : Host.Outcome State Fault Refusal :=
  .next (s.respond (.word s.srFramelen))

/-- RDSR LVL, `p`: return register 0x10 LVL[p] (R38, R166). -/
def execRdsrLvl (p : BitVec 8) (s : State) : Host.Outcome State Fault Refusal :=
  .next (s.respond (.word (s.srLvl p.toNat)))

/-- RDSR SLOT, `p`: return register 0x11 SLOT[p] (R38, R166). -/
def execRdsrSlot (p : BitVec 8) (s : State) : Host.Outcome State Fault Refusal :=
  .next (s.respond (.word (s.srSlot p.toNat)))

/-- RDSR PFLAGS, `p`: return register 0x12 PFLAGS[p] (R38, R166). -/
def execRdsrPflags (p : BitVec 8) (s : State) : Host.Outcome State Fault Refusal :=
  .next (s.respond (.word (s.srPflags p.toNat)))

/-- RDSR RESID, `p`: return register 0x13 RESID[p] (R38, R166). -/
def execRdsrResid (p : BitVec 8) (s : State) : Host.Outcome State Fault Refusal :=
  .next (s.respond (.word (s.srResid p.toNat)))

/-- RDSR SIZE, `p`: return register 0x14 SIZE[p] (R38, R166). -/
def execRdsrSize (p : BitVec 8) (s : State) : Host.Outcome State Fault Refusal :=
  .next (s.respond (.word (s.srSize p.toNat)))

end Sys2Proof.Machine
end

