-- ==== Sys2Proof/Machine/Dispatch.lean ====
section
/-! DEFINITION. The dispatch: one arm per operation of the opcode table (R76, R80), each a direct call of its meaning. -/
namespace Sys2Proof.Machine

def exec (i : Instr) (s : State) : Host.Outcome State Fault Refusal :=
  match i with
  | .reset => Sys2Proof.Machine.execReset s
  | .cfgMode m => Sys2Proof.Machine.execCfgMode m s
  | .cfgCount n => Sys2Proof.Machine.execCfgCount n s
  | .cfgSize v => Sys2Proof.Machine.execCfgSize v s
  | .cfgCommit => Sys2Proof.Machine.execCfgCommit s
  | .push p b => Sys2Proof.Machine.execPush p b s
  | .eos p => Sys2Proof.Machine.execEos p s
  | .asm => Sys2Proof.Machine.execAsm s
  | .pop => Sys2Proof.Machine.execPop s
  | .rdsrState => Sys2Proof.Machine.execRdsrState s
  | .rdsrErr => Sys2Proof.Machine.execRdsrErr s
  | .rdsrMode => Sys2Proof.Machine.execRdsrMode s
  | .rdsrCount => Sys2Proof.Machine.execRdsrCount s
  | .rdsrListlen => Sys2Proof.Machine.execRdsrListlen s
  | .rdsrCifctr => Sys2Proof.Machine.execRdsrCifctr s
  | .rdsrFrmctr => Sys2Proof.Machine.execRdsrFrmctr s
  | .rdsrOutlvl => Sys2Proof.Machine.execRdsrOutlvl s
  | .rdsrStatus => Sys2Proof.Machine.execRdsrStatus s
  | .rdsrCiflen => Sys2Proof.Machine.execRdsrCiflen s
  | .rdsrFramelen => Sys2Proof.Machine.execRdsrFramelen s
  | .rdsrLvl p => Sys2Proof.Machine.execRdsrLvl p s
  | .rdsrSlot p => Sys2Proof.Machine.execRdsrSlot p s
  | .rdsrPflags p => Sys2Proof.Machine.execRdsrPflags p s
  | .rdsrResid p => Sys2Proof.Machine.execRdsrResid p s
  | .rdsrSize p => Sys2Proof.Machine.execRdsrSize p s

end Sys2Proof.Machine
end

