-- ==== Sys2Proof/Machine/Step.lean ====
section
/-! DEFINITION. One step of the machine: the next transaction word of the total order is decoded and performed (R62,
R75, R81). -/
namespace Sys2Proof.Machine

/-- Perform the next operation. With no word left nothing is performed; a reserved word is refused (R88). -/
def step (s : State) : Host.Outcome State Fault Refusal :=
  match s.fetch with
  | none => .fault .noOperation
  | some (w, t) =>
    match decode w with
    | none => .refused (.reserved w)
    | some i => exec i t

/-- `s` with the instruction whose low `nbits` bits are `w` stored as the next word to be performed, where `step`
fetches it (assumption log 1). -/
def State.withFetchWord (s : State) (nbits w : Nat) : State :=
  { s with trace := tableWord nbits w :: s.trace.tail }

end Sys2Proof.Machine
end

