-- ==== Sys2Proof/Machine/Pseudo.lean ====
section
/-! DEFINITION. Sequences of operations: performing a list of operations in order (R16, R62), the pseudo-operations of R92 as
the lists they expand to, and the notation of one line of a trace (R91). -/
namespace Sys2Proof.Machine

/-- Perform the operations of a list in order (R62); the first that has no step ends it. -/
def execAll : List Instr → State → Host.Outcome State Fault Refusal
  | [], s => .next s
  | i :: rest, s =>
    match exec i s with
    | .next t => execAll rest t
    | .fault r => .fault r
    | .refused r => .refused r

/-- `CONFIGN m, n, [s0, ..., s(k-1)]` (R92). -/
def pseudoConfigN (m : BitVec 8) (n : BitVec 16) (sizes : List (BitVec 16)) : List Instr :=
  [.cfgMode m, .cfgCount n] ++ sizes.map Instr.cfgSize ++ [.cfgCommit]

/-- `CONFIG m, [s0, ..., s(k-1)]`: CONFIGN with the list's own length (R92, R112). For more than 65535 sizes R79 gives
CFG_COUNT no operand and the spec no expansion; the count written there, the length modulo 2^16, is the model's own.
DESIGN CHOICE, assumption log 22. -/
def pseudoConfig (m : BitVec 8) (sizes : List (BitVec 16)) : List Instr :=
  pseudoConfigN m (BitVec.ofNat 16 sizes.length) sizes

/-- `PUSHS p, b0 b1 ...` (R92). -/
def pseudoPushs (p : BitVec 8) (bytes : List Byte) : List Instr := bytes.map (Instr.push p)

/-- `PUSHN p, j, b` (R92). -/
def pseudoPushN (p : BitVec 8) (j : Nat) (b : Byte) : List Instr := List.replicate j (.push p b)

/-- `PUSHPAT p, j, (b0 ... b(k-1))`: `PUSH p, b(i mod k)` for `i = 0 .. j-1` (R92). R92 gives no byte for an empty
pattern (`k = 0`); pushing the byte 0 `j` times there is the model's own. DESIGN CHOICE, assumption log 21. -/
def pseudoPushPat (p : BitVec 8) (j : Nat) (pattern : List Byte) : List Instr :=
  (List.range j).map (fun i => .push p (pattern.getD (i % pattern.length) 0))

/-- `POPN j` (R92). -/
def pseudoPopN (j : Nat) : List Instr := List.replicate j .pop

/-- At most `fuel` ASMs, as long as ASM is enabled. -/
def asmWhileEnabled : Nat → State → List Instr
  | 0, _ => []
  | fuel + 1, s =>
    match exec .asm s with
    | .next t => .asm :: asmWhileEnabled fuel t
    | .fault _ => []
    | .refused _ => []

/-- The bytes held in the FIFOs of ports `0 .. N`. -/
def State.buffered (s : State) : Nat := (s.portNumbers.map (fun p => (s.fifo p).length)).sum

/-- `RUN`: ASM repeated as long as ASM is enabled (R92). Every EMIT takes at least one byte from the port FIFOs
(R133), and at most one END follows, which bounds the repetition (assumption log 20). -/
def pseudoRun (s : State) : List Instr := asmWhileEnabled (s.buffered + 1) s

/-- The name and operands of an operation as one line of a trace (R91), numbers in decimal. -/
def render : Instr → String
  | .reset => "RESET"
  | .cfgMode m => "CFG_MODE " ++ toString m.toNat
  | .cfgCount n => "CFG_COUNT " ++ toString n.toNat
  | .cfgSize v => "CFG_SIZE " ++ toString v.toInt
  | .cfgCommit => "CFG_COMMIT"
  | .push p b => "PUSH " ++ toString p.toNat ++ ", " ++ toString b.toNat
  | .eos p => "EOS " ++ toString p.toNat
  | .asm => "ASM"
  | .pop => "POP"
  | .rdsrState => "RDSR STATE"
  | .rdsrErr => "RDSR ERR"
  | .rdsrMode => "RDSR MODE"
  | .rdsrCount => "RDSR COUNT"
  | .rdsrListlen => "RDSR LISTLEN"
  | .rdsrCifctr => "RDSR CIFCTR"
  | .rdsrFrmctr => "RDSR FRMCTR"
  | .rdsrOutlvl => "RDSR OUTLVL"
  | .rdsrStatus => "RDSR STATUS"
  | .rdsrCiflen => "RDSR CIFLEN"
  | .rdsrFramelen => "RDSR FRAMELEN"
  | .rdsrLvl p => "RDSR LVL, " ++ toString p.toNat
  | .rdsrSlot p => "RDSR SLOT, " ++ toString p.toNat
  | .rdsrPflags p => "RDSR PFLAGS, " ++ toString p.toNat
  | .rdsrResid p => "RDSR RESID, " ++ toString p.toNat
  | .rdsrSize p => "RDSR SIZE, " ++ toString p.toNat

end Sys2Proof.Machine
end

