-- ==== Sys2Proof/Safety.lean ====
section
/-! DEFINITION. The terms claims are stated in: the invariants of R41, what is configured and over (R26, R209), frames, and
the history of a run that R59, R142 and R145 speak of. Nothing here is part of the machine. -/
namespace Sys2Proof.Machine

/-- The port and size registers that NSUB_MAX says exist, and no others (R20). -/
abbrev State.Shape (s : State) : Prop := s.ports.length = s.hw.nsubMax + 1 ∧ s.sizes.length = s.hw.nsubMax

/-- `LIFE in {RUN, END}` (R26). -/
abbrev State.Configured (s : State) : Prop := s.life = .run ∨ s.life = .ended

/-- Nothing has streamed: every port is as after RESET, OUT is empty, the counters are 0 (R41 items 1 and 2). -/
abbrev State.Unstreamed (s : State) : Prop :=
  (∀ q ∈ s.ports, q = {}) ∧ s.out = [] ∧ s.cifctr = 0 ∧ s.frmctr = 0

/-- `SIZE[i] = 0` for `i >= min(LISTLEN, NSUB_MAX)` (R41 item 1). -/
abbrev State.SizesPastListZero (s : State) : Prop :=
  ∀ i, i < s.hw.nsubMax → s.listLen.toNat ≤ i → s.sizeReg i = 0

/-- The configuration is valid (R41 item 3). -/
abbrev State.ValidConfig (s : State) : Prop :=
  s.hw.isMode s.mode = true ∧ s.count = s.listLen ∧ (1 ≤ s.numSub ∧ s.numSub ≤ s.hw.nsubMax) ∧
    (∀ i, i < s.numSub → 1 ≤ (s.sizeReg i).toInt) ∧ s.allocatedCUs ≤ (s.hw.cap s.mode : Int)

/-- The invariants R41 gives for reachable states (items 1 to 7), with the shape of R20 and admissible parameters
(R8, R10, R11, R12). -/
structure State.Inv (s : State) : Prop where
  admissible : s.hw.Admissible
  shape : s.Shape
  /-- Item 1. -/
  idle : s.life = .idle → s.Unstreamed ∧ s.err = 0
  /-- Item 1. -/
  sizesPastList : s.SizesPastListZero
  /-- Item 2. -/
  cfgErr : s.life = .cfgErr → s.Unstreamed ∧ 1 ≤ s.err.toNat ∧ s.err.toNat ≤ 5
  /-- Item 3. -/
  valid : s.Configured → s.ValidConfig ∧ s.err = 0
  /-- Item 4. -/
  cifctrBound : s.Configured → s.cifctr.toNat < s.cifsPerFrame
  /-- Item 5. -/
  fifoBound : ∀ p, p ≤ s.hw.nsubMax → (s.capOf p).holds (s.fifo p).length = true
  /-- Item 5. -/
  outBound : s.hw.outCap.holds s.out.length = true
  /-- Item 6. -/
  unusedPorts : ∀ p, p ≤ s.hw.nsubMax → s.numSub < p → s.fifo p = [] ∧ s.eosf p = false
  /-- Item 7. -/
  reports : ∀ p, p ≤ s.hw.nsubMax → (s.resid p ≠ 0 ∨ s.prem p = true) → s.life = .ended ∧ s.eosf p = true

/-- A run of one instance is over when `OUT_EOS` holds (R209). -/
abbrev State.Over (s : State) : Prop := s.life = .ended ∧ s.out = []

/-- The configuration registers and the parameters are the same (R26). -/
abbrev SameConfig (s t : State) : Prop :=
  t.hw = s.hw ∧ t.mode = s.mode ∧ t.count = s.count ∧ t.listLen = s.listLen ∧ t.sizes = s.sizes

/-- The operations that read a status register (R166). -/
def isRdsr : Instr → Bool
  | .rdsrState | .rdsrErr | .rdsrMode | .rdsrCount | .rdsrListlen | .rdsrCifctr | .rdsrFrmctr | .rdsrOutlvl => true
  | .rdsrStatus | .rdsrCiflen | .rdsrFramelen | .rdsrLvl _ | .rdsrSlot _ | .rdsrPflags _ | .rdsrResid _ => true
  | .rdsrSize _ => true
  | .reset | .cfgMode _ | .cfgCount _ | .cfgSize _ | .cfgCommit | .push _ _ | .eos _ | .asm | .pop => false

/-- The configuration operations (R100). -/
def isCfg : Instr → Bool
  | .cfgMode _ | .cfgCount _ | .cfgSize _ | .cfgCommit => true
  | .rdsrState | .rdsrErr | .rdsrMode | .rdsrCount | .rdsrListlen | .rdsrCifctr | .rdsrFrmctr | .rdsrOutlvl => false
  | .rdsrStatus | .rdsrCiflen | .rdsrFramelen | .rdsrLvl _ | .rdsrSlot _ | .rdsrPflags _ | .rdsrResid _ => false
  | .rdsrSize _ | .reset | .push _ _ | .eos _ | .asm | .pop => false

/-- A port is ready for the current CIF: it holds the bytes the CIF needs from it (R128). -/
abbrev State.Ready (s : State) (p : Nat) : Prop := s.need p s.cifctr.toNat ≤ (s.fifo p).length

/-- Every port `0..N` is ready for the current CIF. -/
abbrev State.AllReady (s : State) : Prop := ∀ p, p ≤ s.numSub → s.Ready p

/-- Some port `0..N` that has signalled completion is not ready for the current CIF (R130). -/
abbrev State.EndedShort (s : State) : Prop := ∃ p, p ≤ s.numSub ∧ ¬s.Ready p ∧ s.eosf p = true

/-- OUT can take the whole current CIF (R129): a bounded OUT_CAP leaves room for it. -/
abbrev State.HasRoom (s : State) : Prop :=
  ∀ cap, s.hw.outCap = .bounded cap → s.out.length + s.cifLen s.cifctr.toNat ≤ cap

/-- FIFO[p] is not full (R115). -/
abbrev State.NotFull (s : State) (p : Nat) : Prop := ∀ cap, s.capOf p = .bounded cap → (s.fifo p).length < cap

/-- Applying a map to the data bytes of an operation: only PUSH carries one. -/
def mapByteInstr (f : Byte → Byte) : Instr → Instr
  | .reset => .reset
  | .cfgMode m => .cfgMode m
  | .cfgCount n => .cfgCount n
  | .cfgSize v => .cfgSize v
  | .cfgCommit => .cfgCommit
  | .push p b => .push p (f b)
  | .eos p => .eos p
  | .asm => .asm
  | .pop => .pop
  | .rdsrState => .rdsrState
  | .rdsrErr => .rdsrErr
  | .rdsrMode => .rdsrMode
  | .rdsrCount => .rdsrCount
  | .rdsrListlen => .rdsrListlen
  | .rdsrCifctr => .rdsrCifctr
  | .rdsrFrmctr => .rdsrFrmctr
  | .rdsrOutlvl => .rdsrOutlvl
  | .rdsrStatus => .rdsrStatus
  | .rdsrCiflen => .rdsrCiflen
  | .rdsrFramelen => .rdsrFramelen
  | .rdsrLvl p => .rdsrLvl p
  | .rdsrSlot p => .rdsrSlot p
  | .rdsrPflags p => .rdsrPflags p
  | .rdsrResid p => .rdsrResid p
  | .rdsrSize p => .rdsrSize p

/-- Applying a map to the data byte a POP returned; a register value is no data byte. -/
def mapByteResponse (f : Byte → Byte) : Response → Response
  | .byte b => .byte (f b)
  | .word v => .word v

/-- Applying a map to every data byte the MUX holds. -/
def State.mapBytes (f : Byte → Byte) (s : State) : State :=
  { s with
    ports := s.ports.map (fun q => { q with fifo := q.fifo.map f })
    out := s.out.map f
    response := s.response.map (mapByteResponse f) }

/-- Applying a map to the state an outcome holds. -/
def mapNext (g : State → State) : Host.Outcome State Fault Refusal → Host.Outcome State Fault Refusal
  | .next t => .next (g t)
  | .fault r => .fault r
  | .refused r => .refused r

/-- The history of the instance since the last RESET: the bytes pushed on each port `in(p)`, the bytes discarded from it
`X(p)`, the bytes popped, and the number of EMITs (R59, R145). -/
structure History where
  pushed : Nat → List Byte
  discarded : Nat → List Byte
  popped : List Byte
  emits : Nat

/-- Nothing has happened. -/
def History.empty : History := { pushed := fun _ => [], discarded := fun _ => [], popped := [], emits := 0 }

/-- The history after operation `i` took state `s` to state `t`. -/
def History.after (h : History) (i : Instr) (s t : State) : History :=
  match i with
  | .reset => History.empty
  | .push p b => { h with pushed := fun q => if q = p.toNat then h.pushed q ++ [b] else h.pushed q }
  | .asm =>
    if t.life = .run then { h with emits := h.emits + 1 }
    else { h with discarded := fun p => if p ≤ s.numSub ∧ s.eosf p = true then s.fifo p else h.discarded p }
  | .pop =>
    match t.response with
    | some (.byte b) => { h with popped := h.popped ++ [b] }
    | some (.word _) => h
    | none => h
  | .cfgMode _ | .cfgCount _ | .cfgSize _ | .cfgCommit | .eos _ => h
  | .rdsrState | .rdsrErr | .rdsrMode | .rdsrCount | .rdsrListlen | .rdsrCifctr | .rdsrFrmctr | .rdsrOutlvl => h
  | .rdsrStatus | .rdsrCiflen | .rdsrFramelen | .rdsrLvl _ | .rdsrSlot _ | .rdsrPflags _ | .rdsrResid _ => h
  | .rdsrSize _ => h

/-- `cum(p, k)`: the bytes port `p` contributes to the first `k` CIFs (R145). -/
def State.cum (s : State) (p k : Nat) : Nat :=
  ((List.range k).map (fun j => s.need p (j % s.cifsPerFrame))).sum

/-- Port `p`'s slice of CIF number `j`: bytes `cum(p, j) .. cum(p, j+1) - 1` of `in(p)` (R145 item 1). -/
def History.sliceOf (h : History) (s : State) (p j : Nat) : List Byte :=
  ((h.pushed p).drop (s.cum p j)).take (s.need p (j % s.cifsPerFrame))

/-- CIF number `j`: the slices of ports `0 .. N` in order (R145 item 1). -/
def History.cif (h : History) (s : State) (j : Nat) : List Byte :=
  s.portNumbers.flatMap (fun p => h.sliceOf s p j)

/-- The bytes of the first `k` CIFs, in order. -/
def History.cifs (h : History) (s : State) (k : Nat) : List Byte := (List.range k).flatMap (fun j => h.cif s j)

/-- Where CIF number `j` starts in the output: after the CIFs before it (R142). -/
def State.cifStart (s : State) (j : Nat) : Nat :=
  ((List.range j).map (fun i => s.cifLen (i % s.cifsPerFrame))).sum

/-- Port `p`'s slice of the emitted CIF number `j`, read from the output, popped and still in OUT: the bytes
`off(p, c) .. off(p, c) + need(p, c) - 1` of that CIF, with `c = j mod cifs(MODE)` (R59, R134). -/
def History.emittedSlice (h : History) (s : State) (p j : Nat) : List Byte :=
  ((h.popped ++ s.out).drop (s.cifStart j + s.off p (j % s.cifsPerFrame))).take
    (s.need p (j % s.cifsPerFrame))

/-- What ties a state to the history that led to it: the output, popped and still in OUT, is the CIFs of R145 in
order; each FIFO holds what was pushed and neither emitted nor discarded (R59); the counters count the EMITs
(R136); and a stream that has ended has an ended port that is short for the next CIF (R145 item 3). -/
structure Explains (h : History) (s : State) : Prop where
  fresh : ¬s.Configured → h = History.empty
  cifctr : s.Configured → s.cifctr.toNat = h.emits % s.cifsPerFrame
  frmctr : s.Configured → s.frmctr = BitVec.ofNat 32 (h.emits / s.cifsPerFrame)
  supplied : s.Configured → ∀ p, p ≤ s.numSub → s.cum p h.emits ≤ (h.pushed p).length
  kept : s.Configured → ∀ p, p ≤ s.numSub →
    (h.pushed p).drop (s.cum p h.emits) = s.fifo p ++ h.discarded p
  nothingLost : s.Configured → ∀ p, p ≤ s.numSub → s.life = .run ∨ s.eosf p = false → h.discarded p = []
  residual : s.life = .ended → ∀ p, p ≤ s.numSub → s.eosf p = true →
    s.fifo p = [] ∧ s.resid p = saturate32 (h.discarded p).length ∧
      (s.prem p = true ↔ (h.discarded p).length % s.slot p ≠ 0)
  output : s.Configured → h.popped ++ s.out = h.cifs s h.emits
  endReason : s.life = .ended →
    ∃ p, p ≤ s.numSub ∧ s.eosf p = true ∧ (h.pushed p).length < s.cum p (h.emits + 1)

/-- The states a hardware with parameters `P` reaches from its reset state by any operations of any agents in any order
(R62, R206), each with the history that led to it. -/
inductive Reachable (P : Params) : State → History → Prop where
  | reset : Reachable P (State.resetWith P) History.empty
  | op {s t : State} {h : History} (i : Instr) (hr : Reachable P s h) (hx : exec i s = .next t) :
      Reachable P t (h.after i s t)

/-- Nothing more can be assembled from what has been pushed: the stream has ended, or ASM is held although OUT has
room (R145 item 2). -/
abbrev State.Quiescent (s : State) : Prop :=
  s.life = .ended ∨ (s.life = .run ∧ s.HasRoom ∧ ∀ t, exec .asm s ≠ .next t)

end Sys2Proof.Machine
end

