-- ==== Sys2Proof/Certificates/Slice0/Obligations.lean ====
section
/-! DEFINITION. The statements for the provers, from the numbered rules of the spec. A next state is written as the old state
with the fields that change, so every other field is unchanged. `response` is the model's own field (assumption log 3):
what the operation returned to its agent; `response := t.response` in such an equation leaves it open, and
`OnlyPopAndRdsrReturn` says it. -/

section

open Sys2Proof Sys2Proof.Machine

/-! ### Encoding -/

/-- The words of spec/95_test_vectors.md section 2.1, legal and reserved (R80, R81, R88). -/
def Obligations.DecodeReadsTheSpecWords : Prop :=
  decode 0x10000000 = some .reset ∧ decode 0x20000001 = some (.cfgMode 1) ∧
    decode 0x3000FFFF = some (.cfgCount 65535) ∧ decode 0x4000FFFF = some (.cfgSize (-1)) ∧
    decode 0x50000000 = some .cfgCommit ∧ decode 0x60100001 = some (.push 1 0x01) ∧
    decode 0x70200000 = some (.eos 2) ∧ decode 0x80000000 = some .asm ∧ decode 0x90000000 = some .pop ∧
    decode 0xA0000008 = some .rdsrStatus ∧ decode 0xA0300012 = some (.rdsrPflags 3) ∧
    decode 0x00000000 = none ∧ decode 0xB0000000 = none ∧ decode 0x30010000 = none ∧
    decode 0x60100100 = none ∧ decode 0xA000000B = none ∧ decode 0xA0100008 = none

/-- Every instruction's word decodes to the instruction (R80, R81). -/
def Obligations.DecodeOfEncode : Prop :=
  ∀ i : Instr, i.WellFormed → decode (encode i) = some i

/-- A word that decodes is the word of the instruction it decodes to: no two words spell one operation (R80). -/
def Obligations.EncodeOfDecode : Prop :=
  ∀ (w : Word) (i : Instr), decode w = some i → encode i = w

/-- A word is legal iff it matches exactly one row of the opcode map, and then it decodes to that row's operation
(R81). -/
def Obligations.LegalIffExactlyOneRow : Prop :=
  ∀ w : Word,
    ((decode w).isSome = true ↔ (opcodeMap.filter (fun r => r.encodes w)).length = 1) ∧
      ∀ i, decode w = some i → ∀ r ∈ opcodeMap, r.encodes w = true → r.mnemonic = i.mnemonic

/-! ### The step -/

/-- A step performs the operation the next word of the total order spells, and takes that word off the trace
(R62, R75, R81). -/
def Obligations.StepPerformsTheDecodedWord : Prop :=
  ∀ (s : State) (w : Word) (rest : List Word) (i : Instr), s.trace = w :: rest → decode w = some i →
    step s = exec i { s with trace := rest }

/-- A reserved word is refused by name, and with no word left nothing is performed (R88; the two stops are the
model's, assumption log 1 and 7). -/
def Obligations.StepStopsWithoutAnOperation : Prop :=
  (∀ (s : State) (w : Word) (rest : List Word), s.trace = w :: rest → decode w = none →
      step s = .refused (.reserved w)) ∧
    ∀ s : State, s.trace = [] → step s = .fault .noOperation

/-! ### Reset -/

/-- RESET is always enabled and gives every piece of the spec's state its reset value; a second RESET changes nothing;
after it PUSH, EOS, ASM and POP are held (R165; the stop that says so is the model's, assumption log 2). The parameters and the words still to be performed are not the
spec's state. -/
def Obligations.ResetGivesTheResetState : Prop :=
  ∀ s : State, ∃ t, exec .reset s = .next t ∧
    t.life = .idle ∧ t.mode = 0 ∧ t.count = 0 ∧ t.listLen = 0 ∧ (∀ i, t.sizeReg i = 0) ∧
    (∀ p, t.fifo p = [] ∧ t.eosf p = false ∧ t.resid p = 0 ∧ t.prem p = false) ∧
    t.out = [] ∧ t.frmctr = 0 ∧ t.cifctr = 0 ∧ t.err = 0 ∧
    t.Shape ∧ t.hw = s.hw ∧ t.trace = s.trace ∧ t.response = none ∧
    exec .reset t = .next t ∧
    (∀ p b, exec (.push p b) t = .fault .heldNotRunning) ∧ (∀ p, exec (.eos p) t = .fault .heldNotRunning) ∧
    exec .asm t = .fault .heldNotRunning ∧ exec .pop t = .fault .heldEmpty

/-- The model's reset state holds the values of R40, has admissible parameters, and nothing to perform. That the
parameters are admissible and the trace is empty is the model's choice (assumption log 1 and 4). -/
def Obligations.ResetStateHoldsTheSpecValues : Prop :=
  State.reset.hw.Admissible ∧ State.reset.life = .idle ∧ State.reset.mode = 0 ∧ State.reset.count = 0 ∧
    State.reset.listLen = 0 ∧ (∀ i, State.reset.sizeReg i = 0) ∧
    (∀ p, State.reset.fifo p = [] ∧ State.reset.eosf p = false ∧ State.reset.resid p = 0 ∧
      State.reset.prem p = false) ∧
    State.reset.out = [] ∧ State.reset.cifctr = 0 ∧ State.reset.frmctr = 0 ∧ State.reset.err = 0 ∧
    State.reset.trace = [] ∧ State.reset.response = none

/-- In the reset state of any hardware every status register reads 0, at every port operand (R38, C9). -/
def Obligations.ResetStateReadsZero : Prop :=
  ∀ (P : Params) (i : Instr), isRdsr i = true →
    exec i (State.resetWith P) = .next { State.resetWith P with response := some (.word 0) }

/-! ### Configuration -/

/-- CFG_MODE and CFG_COUNT, always enabled, write their register in IDLE and nothing else in any state
(R101, R102). -/
def Obligations.CfgModeAndCountWrite : Prop :=
  ∀ s : State,
    (∀ m, ∃ t, exec (.cfgMode m) s = .next t ∧
      t = { s with mode := if s.life = .idle then m else s.mode, response := t.response }) ∧
      ∀ n, ∃ t, exec (.cfgCount n) s = .next t ∧
        t = { s with count := if s.life = .idle then n else s.count, response := t.response }

/-- CFG_SIZE in IDLE counts the size, saturating at 65535, stores it at SIZE[LISTLEN] if `LISTLEN < NSUB_MAX`, and
changes nothing else; outside IDLE it changes nothing (R103). -/
def Obligations.CfgSizeAppends : Prop :=
  (∀ (s : State) (v : BitVec 16), s.life ≠ .idle →
    ∃ t, exec (.cfgSize v) s = .next t ∧ t = { s with response := t.response }) ∧
  ∀ (s : State) (v : BitVec 16), s.life = .idle → s.Shape → ∃ t, exec (.cfgSize v) s = .next t ∧
    t.listLen.toNat = min (s.listLen.toNat + 1) 65535 ∧
    (s.listLen.toNat < s.hw.nsubMax → t.sizeReg s.listLen.toNat = v) ∧
    (∀ i, i ≠ s.listLen.toNat → t.sizeReg i = s.sizeReg i) ∧
    (s.hw.nsubMax ≤ s.listLen.toNat → t.sizes = s.sizes) ∧
    t = { s with sizes := t.sizes, listLen := t.listLen, response := t.response }

/-- Outside IDLE the four CFG operations are performed and change nothing (R100). -/
def Obligations.CfgOutsideIdleIgnored : Prop :=
  ∀ (s : State) (i : Instr), s.life ≠ .idle → isCfg i = true →
    ∃ t, exec i s = .next t ∧ t = { s with response := t.response }

/-- CFG_COMMIT in IDLE makes the five checks in order: the first that fails records its code and enters CFGERR, and if
all pass LIFE becomes RUN; nothing else changes (R104 to R109, R179). -/
def Obligations.CommitValidatesInOrder : Prop :=
  ∀ s : State, s.life = .idle →
    let modeValid := ∃ r ∈ s.hw.modes, r.id = s.mode
    let countInRange := 1 ≤ s.count.toNat ∧ s.count.toNat ≤ s.hw.nsubMax
    let sizesPositive := ∀ i, i < s.count.toNat → 0 < (s.sizeReg i).toInt
    let fits := (s.hw.ficCu s.mode : Int) + ((List.range s.count.toNat).map (fun i => (s.sizeReg i).toInt)).sum ≤
      (s.hw.cap s.mode : Int)
    let fails := fun code : BitVec 3 =>
      ∃ t, exec .cfgCommit s = .next t ∧ t = { s with life := .cfgErr, err := code, response := t.response }
    (¬modeValid → fails 1) ∧
      (modeValid → s.count ≠ s.listLen → fails 2) ∧
      (modeValid → s.count = s.listLen → ¬countInRange → fails 3) ∧
      (modeValid → s.count = s.listLen → countInRange → ¬sizesPositive → fails 4) ∧
      (modeValid → s.count = s.listLen → countInRange → sizesPositive → ¬fits → fails 5) ∧
      (modeValid → s.count = s.listLen → countInRange → sizesPositive → fits →
        ∃ t, exec .cfgCommit s = .next t ∧ t = { s with life := .run, response := t.response })

/-- The FIC's CU-equivalent size is the least whole number of 8-byte capacity units that holds one FIC slice, and 0 for a
mode that never carries FIC (R9). -/
def Obligations.FicCuIsTheCeiling : Prop :=
  ∀ (P : Params) (m : BitVec 8),
    ((∃ c, c < P.cifs m ∧ P.sched m c = true) →
        P.fbs m ≤ 8 * P.ficCu m ∧ ∀ k, P.fbs m ≤ 8 * k → P.ficCu m ≤ k) ∧
      ((∀ c, c < P.cifs m → P.sched m c = false) → P.ficCu m = 0)

/-- `CONFIG m, [sizes]` on a hardware just reset is the source's constructor call: it ends in RUN iff the mode is valid,
the list has 1 to NSUB_MAX entries, all are positive, and they fit with the FIC; it ends in CFGERR otherwise; in RUN port
`i + 1` has slot size 8 times the i-th entry (R112). The list is one CFG_COUNT can count (R79; longer lists: assumption
log 22). -/
def Obligations.ConstructorContract : Prop :=
  ∀ (P : Params) (m : BitVec 8) (sizes : List (BitVec 16)), P.Admissible → sizes.length ≤ 65535 →
    ∃ t, execAll (pseudoConfig m sizes) (State.resetWith P) = .next t ∧
      (t.life = .run ↔ (∃ r ∈ P.modes, r.id = m) ∧ 1 ≤ sizes.length ∧ sizes.length ≤ P.nsubMax ∧
        (∀ v ∈ sizes, 0 < v.toInt) ∧
        (P.ficCu m : Int) + (sizes.map (fun v => v.toInt)).sum ≤ (P.cap m : Int)) ∧
      (t.life ≠ .run → t.life = .cfgErr ∧ t.out = []) ∧
      (t.life = .run → t.mode = m ∧ t.numSub = sizes.length ∧
        ∀ i v, sizes[i]? = some v → (t.slot (i + 1) : Int) = 8 * v.toInt)

/-! ### Input ports -/

/-- PUSH, when enabled, appends its byte at the tail of FIFO[p] and changes nothing else (R115). The port's FIFO is one
the hardware has. -/
def Obligations.PushAppendsOneByte : Prop :=
  ∀ (s : State) (p : BitVec 8) (b : Byte), s.life = .run → p.toNat ≤ s.numSub → p.toNat < s.ports.length →
    s.eosf p.toNat = false → s.NotFull p.toNat →
    ∃ t, exec (.push p b) s = .next t ∧ t.fifo p.toNat = s.fifo p.toNat ++ [b] ∧
      t.eosf p.toNat = s.eosf p.toNat ∧ t.resid p.toNat = s.resid p.toNat ∧ t.prem p.toNat = s.prem p.toNat ∧
      (∀ q, q ≠ p.toNat → t.port q = s.port q) ∧ t = { s with ports := t.ports, response := none }

/-- EOS, when enabled, sets EOSF[p] and changes nothing else; a second EOS on the port changes nothing (R116). -/
def Obligations.EosSetsTheFlag : Prop :=
  ∀ (s : State) (p : BitVec 8), s.life = .run → p.toNat ≤ s.numSub → p.toNat < s.ports.length →
    ∃ t, exec (.eos p) s = .next t ∧ t.eosf p.toNat = true ∧
      t.fifo p.toNat = s.fifo p.toNat ∧ t.resid p.toNat = s.resid p.toNat ∧ t.prem p.toNat = s.prem p.toNat ∧
      (∀ q, q ≠ p.toNat → t.port q = s.port q) ∧ t = { s with ports := t.ports, response := none } ∧
      exec (.eos p) t = .next t

/-- PUSH and EOS have a step exactly when they are enabled; otherwise the agent is held, and the stop says why (R115,
R116; the stop is the model's form of "no step", assumption log 2). -/
def Obligations.InputEnabledExactlyWhen : Prop :=
  ∀ (s : State) (p : BitVec 8) (b : Byte),
    ((∃ t, exec (.push p b) s = .next t) ↔
      s.life = .run ∧ p.toNat ≤ s.numSub ∧ s.eosf p.toNat = false ∧ s.NotFull p.toNat) ∧
    ((∃ t, exec (.eos p) s = .next t) ↔ s.life = .run ∧ p.toNat ≤ s.numSub) ∧
    (s.life ≠ .run → exec (.push p b) s = .fault .heldNotRunning ∧ exec (.eos p) s = .fault .heldNotRunning) ∧
    (s.life = .run → s.numSub < p.toNat →
      exec (.push p b) s = .fault .heldNoPort ∧ exec (.eos p) s = .fault .heldNoPort) ∧
    (s.life = .run → p.toNat ≤ s.numSub → s.eosf p.toNat = true → exec (.push p b) s = .fault .heldEnded) ∧
    (s.life = .run → p.toNat ≤ s.numSub → s.eosf p.toNat = false → ¬s.NotFull p.toNat →
      exec (.push p b) s = .fault .heldFull)

/-- PUSHes on different ports commute: either order gives the same state (R62 item 2). -/
def Obligations.PushesOnDifferentPortsCommute : Prop :=
  ∀ (s t u : State) (p q : BitVec 8) (a b : Byte), p ≠ q → exec (.push p a) s = .next t →
    exec (.push q b) t = .next u →
    ∃ t', exec (.push q b) s = .next t' ∧ exec (.push p a) t' = .next u

/-- PUSH and POP commute: if they have steps in one order they have in the other, and either order gives the same state of
the MUX and the consumer the same byte (R62 item 3). -/
def Obligations.PushAndPopCommute : Prop :=
  ∀ (s : State) (p : BitVec 8) (a : Byte),
    (∀ t u, exec (.push p a) s = .next t → exec .pop t = .next u →
      ∃ t' u', exec .pop s = .next t' ∧ exec (.push p a) t' = .next u' ∧
        t'.response = u.response ∧ { u' with response := u.response } = u) ∧
    ∀ t u, exec .pop s = .next t → exec (.push p a) t = .next u →
      ∃ t' u', exec (.push p a) s = .next t' ∧ exec .pop t' = .next u' ∧
        u'.response = t.response ∧ { u with response := u'.response } = u'

/-! ### CIF assembly -/

/-- In RUN exactly one of three outcomes applies: EMIT if every port is ready and OUT has room, else END if some ended
port is short, else STALL, in which ASM has no step; EMIT stays in RUN, END enters END (R131, R138). Outside RUN ASM
has no step. -/
def Obligations.AsmHasOneOutcome : Prop :=
  ∀ s : State,
    (s.life = .run → s.AllReady → s.HasRoom → ∃ t, exec .asm s = .next t ∧ t.life = .run) ∧
    (s.life = .run → s.EndedShort → ∃ t, exec .asm s = .next t ∧ t.life = .ended) ∧
    (¬(s.life = .run ∧ ((s.AllReady ∧ s.HasRoom) ∨ s.EndedShort)) → ∀ t, exec .asm s ≠ .next t) ∧
    ¬(s.AllReady ∧ s.EndedShort)

/-- When ASM or POP has no step it is held, and the stop says why (R132, R138, R155; the stop is the model's form of "no
step", assumption log 2). -/
def Obligations.AsmAndPopHeldForTheReason : Prop :=
  ∀ s : State,
    (s.life ≠ .run → exec .asm s = .fault .heldNotRunning) ∧
    (s.life = .run → ¬s.AllReady → ¬s.EndedShort → exec .asm s = .fault .heldStarved) ∧
    (s.life = .run → s.AllReady → ¬s.HasRoom → exec .asm s = .fault .heldNoRoom) ∧
    (s.out = [] → exec .pop s = .fault .heldEmpty)

/-- EMIT in full: each port `0..N` loses exactly its first `need(p, c)` bytes and keeps the rest in order, OUT gains the
slices of ports `0, 1, ..., N` in this order, the schedule pointer advances by one CIF, and nothing else changes
(R135; the pointer's advance as R33 writes it). -/
def Obligations.EmitTakesEverySlice : Prop :=
  ∀ s : State, s.life = .run → s.AllReady → s.HasRoom → ∃ t, exec .asm s = .next t ∧
    t.out = s.out ++ (List.range (s.numSub + 1)).flatMap
      (fun p => (s.fifo p).take (s.need p s.cifctr.toNat)) ∧
    (∀ p, p ≤ s.numSub → t.fifo p = (s.fifo p).drop (s.need p s.cifctr.toNat)) ∧
    (∀ p, s.numSub < p → t.fifo p = s.fifo p) ∧
    (∀ p, t.eosf p = s.eosf p ∧ t.resid p = s.resid p ∧ t.prem p = s.prem p) ∧
    (s.cifctr.toNat + 1 < s.cifsPerFrame → t.cifctr = s.cifctr + 1 ∧ t.frmctr = s.frmctr) ∧
    (¬s.cifctr.toNat + 1 < s.cifsPerFrame → t.cifctr = 0 ∧ t.frmctr = s.frmctr + 1) ∧
    t = { s with
      ports := t.ports, out := t.out, cifctr := t.cifctr, frmctr := t.frmctr, response := t.response }

/-- The unit an EMIT appends has `cif_len(c)` bytes, and port `p`'s slice stands at byte offsets
`off(p, c) .. off(p, c) + need(p, c) - 1` of it (R134). -/
def Obligations.EmittedCifLayout : Prop :=
  ∀ s t : State, exec .asm s = .next t → t.life = .run →
    let c := s.cifctr.toNat
    ∃ unit : List Byte, t.out = s.out ++ unit ∧ unit.length = s.cifLen c ∧
      ∀ p, p ≤ s.numSub → (unit.drop (s.off p c)).take (s.need p c) = (s.fifo p).take (s.need p c) ∧
        ((s.fifo p).take (s.need p c)).length = s.need p c

/-- After an EMIT of CIF index `c`, CIFCTR is `(c + 1) mod cifs(MODE)`; if the new CIFCTR is 0, FRMCTR is advanced modulo
2^32, otherwise it is unchanged. END, and every operation but ASM and RESET, leaves both (R136). -/
def Obligations.CountersAdvanceOnlyOnEmit : Prop :=
  ∀ s t : State, s.Inv →
    (exec .asm s = .next t → t.life = .run →
      t.cifctr.toNat = (s.cifctr.toNat + 1) % s.cifsPerFrame ∧
        (t.cifctr = 0 → t.frmctr.toNat = (s.frmctr.toNat + 1) % 2 ^ 32) ∧
        (t.cifctr ≠ 0 → t.frmctr = s.frmctr)) ∧
    (exec .asm s = .next t → t.life = .ended → t.cifctr = s.cifctr ∧ t.frmctr = s.frmctr) ∧
    ∀ i, i ≠ .asm → i ≠ .reset → exec i s = .next t → t.cifctr = s.cifctr ∧ t.frmctr = s.frmctr

/-- The END transition: every ended port `0..N` records the number of its residual bytes (saturating) and whether it is
not a multiple of the slot size, and loses them; every other port keeps everything; LIFE becomes END; OUT, the counters,
EOSF and all else are unchanged (R137). -/
def Obligations.EndDiscardsAndReports : Prop :=
  ∀ s : State, s.life = .run → s.EndedShort → ∃ t, exec .asm s = .next t ∧ t.life = .ended ∧
    (∀ p, p ≤ s.numSub → s.eosf p = true →
      t.fifo p = [] ∧ t.resid p = BitVec.ofNat 32 (min (s.fifo p).length (2 ^ 32 - 1)) ∧
        (t.prem p = true ↔ (s.fifo p).length % s.slot p ≠ 0)) ∧
    (∀ p, ¬(p ≤ s.numSub ∧ s.eosf p = true) → t.port p = s.port p) ∧ (∀ p, t.eosf p = s.eosf p) ∧
    t = { s with life := .ended, ports := t.ports, response := t.response }

/-- For a valid configuration `8 <= cif_len(c) <= 8 * cap(MODE)` for every `c`; hence OUT has room for a CIF whenever it is
empty, and a full port FIFO is never starved (R133). -/
def Obligations.CifLengthBounds : Prop :=
  ∀ s : State, s.Inv → s.Configured →
    (∀ c, 8 ≤ s.cifLen c ∧ s.cifLen c ≤ 8 * s.hw.cap s.mode) ∧
      (s.out = [] → s.HasRoom) ∧ ∀ p, p ≤ s.numSub → ¬s.NotFull p → s.Ready p

/-- `cif_len(c)` is the FIC slice, if scheduled, and 8 bytes for every capacity unit of every subchannel; it is the same
for every CIF index of the frame iff `uniform(MODE)` (R141). -/
def Obligations.ConstantLengthIffUniform : Prop :=
  ∀ s : State, s.Inv → s.Configured →
    (∀ c, (s.cifLen c : Int) = (if s.hw.sched s.mode c = true then (s.hw.fbs s.mode : Int) else 0) +
      ((List.range s.numSub).map (fun i => 8 * (s.sizeReg i).toInt)).sum) ∧
    ((∀ c d, c < s.cifsPerFrame → d < s.cifsPerFrame → s.cifLen c = s.cifLen d) ↔
      ∀ c d, c < s.cifsPerFrame → d < s.cifsPerFrame → s.hw.sched s.mode c = s.hw.sched s.mode d)

/-- Slots, needs, offsets and FIFO capacities of the ports: the FIC slot is `fbs(MODE)` bytes whether or not a CIF carries
it (D30), and the slot of subchannel port `p` is `8 * SIZE[p-1]` bytes (R9). A subchannel contributes its slot to every
CIF; the FIC contributes `fbs(MODE)` bytes to the scheduled ones and none to the others; and relative to subchannel 0
every subchannel slice starts at a multiple of 8 (R53, R54, R126, R127). Port 0 has the capacity CAP_FIC, every other
port CAP_SUB (R11). -/
def Obligations.SlotsAreWholeCapacityUnits : Prop :=
  ∀ s : State, s.Inv → s.Configured →
    s.numSub = s.count.toNat ∧ s.cifsPerFrame = s.hw.cifs s.mode ∧ s.slot 0 = s.hw.fbs s.mode ∧
    s.capOf 0 = s.hw.capFic ∧ (∀ p, 1 ≤ p → s.capOf p = s.hw.capSub) ∧
    (∀ c, s.need 0 c = (if s.hw.sched s.mode c = true then s.hw.fbs s.mode else 0) ∧ s.off 0 c = 0 ∧
      s.off 1 c = s.need 0 c) ∧
    ∀ p, 1 ≤ p → p ≤ s.numSub →
      (s.slot p : Int) = 8 * (s.sizeReg (p - 1)).toInt ∧
      ∀ c, (s.need p c : Int) = 8 * (s.sizeReg (p - 1)).toInt ∧ s.off (p + 1) c = s.off p c + s.need p c ∧
        s.off 1 c ≤ s.off p c ∧ (s.off p c - s.off 1 c) % 8 = 0

/-- The MUX causes no deadlock: in RUN, an ASM that is not enabled waits only for a short port whose producer can PUSH, or
for a consumer that can POP; an ended short port gives END (R146). -/
def Obligations.NoDeadlockInRun : Prop :=
  ∀ s : State, s.Inv → s.life = .run →
    (∀ (p : BitVec 8) (b : Byte), p.toNat ≤ s.numSub → ¬s.Ready p.toNat → s.eosf p.toNat = false →
      ∃ t, exec (.push p b) s = .next t) ∧
    (s.EndedShort → ∃ t, exec .asm s = .next t) ∧
    (s.AllReady → (∃ t, exec .asm s = .next t) ∨ ∃ t, exec .pop s = .next t) ∧
    ((∃ t, exec .asm s = .next t) ∨ (∃ t, exec .pop s = .next t) ∨
      ∃ p : BitVec 8, p.toNat ≤ s.numSub ∧ ∀ b, ∃ t, exec (.push p b) s = .next t)

/-- The pseudo-operation RUN, from any reachable RUN state, performs ASMs that all have a step and ends where ASM has
none (R92). -/
def Obligations.PseudoRunEndsWhereAsmIsHeld : Prop :=
  ∀ s : State, s.Inv → s.life = .run →
    ∃ t, execAll (pseudoRun s) s = .next t ∧ (∀ i ∈ pseudoRun s, i = .asm) ∧ ∀ u, exec .asm t ≠ .next u

/-! ### Output -/

/-- POP returns and removes the head byte of OUT in any lifecycle state and changes nothing else; with OUT empty it has no
step (R155). The byte returned stands in `response`, the model's form of a returned value (assumption log 3). -/
def Obligations.PopTakesTheHead : Prop :=
  ∀ s : State,
    (∀ b rest, s.out = b :: rest →
      exec .pop s = .next { s with out := rest, response := some (.byte b) }) ∧
    (s.out = [] → ∀ t, exec .pop s ≠ .next t)

/-- What an operation returns to its agent: POP a byte, RDSR a 32-bit value, every other operation nothing (R90). That it
stands in the field `response` until the next operation is the model's choice (assumption log 3). -/
def Obligations.OnlyPopAndRdsrReturn : Prop :=
  ∀ (i : Instr) (s t : State), exec i s = .next t →
    (i = .pop → ∃ b, t.response = some (.byte b)) ∧ (isRdsr i = true → ∃ v, t.response = some (.word v)) ∧
      (i ≠ .pop → isRdsr i = false → t.response = none)

/-- A run that is over (END and OUT empty) stays over: no operation but RESET changes anything, and PUSH, EOS, ASM and POP
have no step (R157, R209). -/
def Obligations.OverStaysOver : Prop :=
  ∀ s : State, s.Over →
    (∀ i t, exec i s = .next t → i = .reset ∨ t = { s with response := t.response }) ∧
      ∀ i, (∃ t, exec i s = .next t) ↔ i = .reset ∨ isCfg i = true ∨ isRdsr i = true

/-! ### Status registers -/

/-- The global status registers but STATUS: each RDSR returns its value and changes nothing (R38, R166). -/
def Obligations.GlobalRegistersRead : Prop :=
  ∀ s : State,
    let returns := fun (i : Instr) (v : Word) => exec i s = .next { s with response := some (.word v) }
    returns .rdsrState
        (match s.life with | .idle => 0 | .run => 1 | .ended => 2 | .cfgErr => 3) ∧
      returns .rdsrErr (BitVec.ofNat 32 s.err.toNat) ∧ returns .rdsrMode (BitVec.ofNat 32 s.mode.toNat) ∧
      returns .rdsrCount (BitVec.ofNat 32 s.count.toNat) ∧
      returns .rdsrListlen (BitVec.ofNat 32 s.listLen.toNat) ∧
      returns .rdsrCifctr (BitVec.ofNat 32 s.cifctr.toNat) ∧ returns .rdsrFrmctr s.frmctr ∧
      returns .rdsrOutlvl (BitVec.ofNat 32 (min s.out.length (2 ^ 32 - 1))) ∧
      (s.Configured → returns .rdsrCiflen (BitVec.ofNat 32 (s.cifLen s.cifctr.toNat)) ∧
        returns .rdsrFramelen (BitVec.ofNat 32 s.frameLen)) ∧
      (¬s.Configured → returns .rdsrCiflen 0 ∧ returns .rdsrFramelen 0)

/-- The per-port status registers but PFLAGS: each RDSR returns its value, at every port operand, and changes nothing
(R38, R166). -/
def Obligations.PortRegistersRead : Prop :=
  ∀ (s : State) (p : BitVec 8),
    let returns := fun (i : Instr) (v : Word) => exec i s = .next { s with response := some (.word v) }
    (p.toNat ≤ s.hw.nsubMax →
        returns (.rdsrLvl p) (BitVec.ofNat 32 (min (s.fifo p.toNat).length (2 ^ 32 - 1))) ∧
          returns (.rdsrResid p) (s.resid p.toNat)) ∧
      (s.hw.nsubMax < p.toNat →
        returns (.rdsrLvl p) 0 ∧ returns (.rdsrResid p) 0 ∧ returns (.rdsrPflags p) 0 ∧
          returns (.rdsrSize p) 0) ∧
      (s.Configured → p.toNat ≤ s.numSub → returns (.rdsrSlot p) (BitVec.ofNat 32 (s.slot p.toNat))) ∧
      (¬(s.Configured ∧ p.toNat ≤ s.numSub) → returns (.rdsrSlot p) 0) ∧
      (p.toNat ≠ 0 → p.toNat ≤ s.hw.nsubMax →
        returns (.rdsrSize p) (BitVec.ofInt 32 (s.sizeReg (p.toNat - 1)).toInt)) ∧
      (p.toNat = 0 → s.life ≠ .idle → (∃ r ∈ s.hw.modes, r.id = s.mode) →
        returns (.rdsrSize p) (BitVec.ofNat 32 (s.hw.ficCu s.mode))) ∧
      (p.toNat = 0 → (s.life = .idle ∨ ∀ r ∈ s.hw.modes, r.id ≠ s.mode) → returns (.rdsrSize p) 0)

/-- RDSR STATUS returns the word of R36, bit by bit with the predicates of R35, and changes nothing. -/
def Obligations.StatusWordBits : Prop :=
  ∀ s : State, ∃ v : Word, exec .rdsrStatus s = .next { s with response := some (.word v) } ∧
    (v.getLsbD 0 = true ↔ s.life = .run ∨ s.life = .ended) ∧
    (v.getLsbD 1 = true ↔ s.life = .cfgErr) ∧
    (v.getLsbD 2 = true ↔ s.life = .ended) ∧
    (v.getLsbD 3 = true ↔ s.life = .ended ∧ s.out = []) ∧
    (v.getLsbD 4 = true ↔ s.life = .run ∧ ¬s.AllReady ∧ ¬s.EndedShort) ∧
    (v.getLsbD 5 = true ↔ s.life = .run ∧ s.AllReady ∧ ¬s.HasRoom) ∧
    (v.getLsbD 6 = true ↔ ∃ p, s.prem p = true) ∧
    (v.getLsbD 7 = true ↔ s.out ≠ []) ∧
    ∀ k, 8 ≤ k → v.getLsbD k = false

/-- RDSR PFLAGS returns EXISTS(p), EOSF[p], STARVED(p), PREM[p] in bits 0 to 3 and zeros above, for a port the hardware has,
and changes nothing (R38, R26, R128). -/
def Obligations.PortFlagsBits : Prop :=
  ∀ (s : State) (p : BitVec 8), p.toNat ≤ s.hw.nsubMax →
    ∃ v : Word, exec (.rdsrPflags p) s = .next { s with response := some (.word v) } ∧
      (v.getLsbD 0 = true ↔ s.Configured ∧ p.toNat ≤ s.numSub) ∧
      (v.getLsbD 1 = true ↔ s.eosf p.toNat = true) ∧
      (v.getLsbD 2 = true ↔ s.life = .run ∧ p.toNat ≤ s.numSub ∧ ¬s.Ready p.toNat) ∧
      (v.getLsbD 3 = true ↔ s.prem p.toNat = true) ∧
      ∀ k, 4 ≤ k → v.getLsbD k = false

/-! ### Lifecycle and invariants -/

/-- The reset state of every admissible hardware, and the model's own, meets the invariant (R40, R41). -/
def Obligations.ResetMeetsTheInvariant : Prop :=
  (∀ P : Params, P.Admissible → (State.resetWith P).Inv) ∧ State.reset.Inv

/-- The invariant of R41 (items 1 to 7) is kept by every step, from every state that has it. -/
def Obligations.StepKeepsTheInvariant : Prop :=
  ∀ s t : State, s.Inv → step s = .next t → t.Inv

/-- Every run of any trace of words on an admissible hardware just reset stays within the invariant (R41, R206). -/
def Obligations.RunsFromResetKeepTheInvariant : Prop :=
  ∀ (P : Params) (words : List Word) (k : Nat) (t : State), P.Admissible →
    Sys2Proof.core.run k { State.resetWith P with trace := words } = .next t → t.Inv

/-- ERR is non-zero iff LIFE is CFGERR: every operation keeps it, from every state that has it; ERR is written only by RESET,
to 0, and by a CFG_COMMIT that fails, to 1..5; in every reachable state it holds, ERR is at most 5, and in CFGERR the
output is empty (R32, R41 item 2). -/
def Obligations.ErrorCodeIffConfigError : Prop :=
  (∀ (i : Instr) (s t : State), (s.err ≠ 0 ↔ s.life = .cfgErr) → exec i s = .next t →
    (t.err ≠ 0 ↔ t.life = .cfgErr)) ∧
  (∀ (i : Instr) (s t : State), exec i s = .next t → t.err ≠ s.err →
    (i = .reset ∧ t.err = 0) ∨
      (i = .cfgCommit ∧ s.life = .idle ∧ t.life = .cfgErr ∧ 1 ≤ t.err.toNat ∧ t.err.toNat ≤ 5)) ∧
  ∀ (P : Params) (s : State) (h : History), P.Admissible → Reachable P s h →
    (s.err ≠ 0 ↔ s.life = .cfgErr) ∧ s.err.toNat ≤ 5 ∧ (s.life = .cfgErr → s.out = [])

/-- LIFE changes only as the table of R21 says: to IDLE by RESET, from IDLE to RUN or CFGERR by CFG_COMMIT, from RUN to END
by ASM. -/
def Obligations.LifecycleTransitions : Prop :=
  ∀ (i : Instr) (s t : State), exec i s = .next t → t.life ≠ s.life →
    (i = .reset ∧ t.life = .idle) ∨
      (i = .cfgCommit ∧ s.life = .idle ∧ (t.life = .run ∨ t.life = .cfgErr)) ∨
      (i = .asm ∧ s.life = .run ∧ t.life = .ended)

/-- CFGERR and END are absorbing but for RESET, and what is stable once seen stays: ERR, RESID, PREM, EOSF, the
configuration (R186, R220, R26, R28). -/
def Obligations.StableFacts : Prop :=
  ∀ (i : Instr) (s t : State), exec i s = .next t → i ≠ .reset →
    (s.life = .cfgErr ∨ s.life = .ended → t.life = s.life ∧ t.err = s.err ∧
      ∀ p, t.resid p = s.resid p ∧ t.prem p = s.prem p) ∧
    (s.life ≠ .idle → SameConfig s t) ∧
    (∀ p, s.eosf p = true → t.eosf p = true)

/-- What each operation does in each lifecycle state: RESET, the CFG operations and RDSR always have a step; PUSH, EOS and
ASM have none outside RUN; POP has one iff OUT is non-empty (R189). That "no step" outside RUN is the stop heldNotRunning
is the model's choice (assumption log 2). -/
def Obligations.LifecycleTable : Prop :=
  ∀ (i : Instr) (s : State),
    (i = .reset ∨ isCfg i = true ∨ isRdsr i = true → ∃ t, exec i s = .next t) ∧
    (s.life ≠ .run → (i = .asm ∨ (∃ p, i = .eos p) ∨ ∃ p b, i = .push p b) → exec i s = .fault .heldNotRunning) ∧
    ((∃ t, exec .pop s = .next t) ↔ s.out ≠ []) ∧
    ((∃ t, exec .asm s = .next t) ↔ s.life = .run ∧ ((s.AllReady ∧ s.HasRoom) ∨ s.EndedShort))

/-! ### The output as a function of the inputs -/

/-- The history and the state stay tied together by every operation: `Explains` is kept (R59, R136, R145). -/
def Obligations.HistoryStaysExplained : Prop :=
  ∀ (i : Instr) (s t : State) (h : History), s.Inv → Explains h s → exec i s = .next t →
    Explains (h.after i s t) t

/-- Every reachable state of an admissible hardware meets the invariant and is explained by its history. -/
def Obligations.ReachableIsExplained : Prop :=
  ∀ (P : Params) (s : State) (h : History), P.Admissible → Reachable P s h → s.Inv ∧ Explains h s

/-- Conservation: the bytes pushed on a port are its slices of the CIFs emitted so far, read from the output (popped, then
OUT) where R134 places them, then the content of its FIFO, then the discarded residual, which is empty in RUN and
counted by RESID in END for a port that has ended (R59). -/
def Obligations.NothingLostNothingDuplicated : Prop :=
  ∀ (P : Params) (s : State) (h : History), P.Admissible → Reachable P s h → s.Configured →
    ∀ p, p ≤ s.numSub →
      h.pushed p = (List.range h.emits).flatMap (fun j => h.emittedSlice s p j) ++ s.fifo p ++ h.discarded p ∧
        (s.life = .run → h.discarded p = []) ∧
        (s.life = .ended → s.eosf p = false → h.discarded p = []) ∧
        (s.life = .ended → s.eosf p = true →
          s.resid p = BitVec.ofNat 32 (min (h.discarded p).length (2 ^ 32 - 1)))

/-- Premature end is a property of the input: after END, PREM of an ended port says whether the number of bytes pushed on
it since CFG_COMMIT is a whole number of slots, whenever EOS was signalled (R137, R181). -/
def Obligations.PrematureIffPartialSlotPushed : Prop :=
  ∀ (P : Params) (s : State) (h : History), P.Admissible → Reachable P s h → s.life = .ended →
    ∀ p, p ≤ s.numSub → s.eosf p = true → (s.prem p = true ↔ (h.pushed p).length % s.slot p ≠ 0)

/-- The bytes output so far, popped and then still in OUT, are the CIFs of the pushed bytes in order: CIF number `j` is, for
`p = 0 .. N`, the bytes `cum(p, j) .. cum(p, j+1) - 1` pushed on port `p` (R145 item 1; R156 for the popped bytes, which
come first). -/
def Obligations.OutputIsTheCifsOfTheInputs : Prop :=
  ∀ (P : Params) (s : State) (h : History), P.Admissible → Reachable P s h → s.Configured →
    h.popped ++ s.out = (List.range h.emits).flatMap (fun j =>
      (List.range (s.numSub + 1)).flatMap (fun p =>
        ((h.pushed p).drop (s.cum p j)).take (s.cum p (j + 1) - s.cum p j)))

/-- The output so far is the whole frames FRMCTR counts (before it wraps) and then the first CIFCTR CIFs of a frame
(R41 item 8). -/
def Obligations.OutputLengthInFrames : Prop :=
  ∀ (P : Params) (s : State) (h : History), P.Admissible → Reachable P s h → s.Configured →
    ∃ frames : Nat, s.frmctr = BitVec.ofNat 32 frames ∧
      h.emits = frames * s.cifsPerFrame + s.cifctr.toNat ∧
      (h.popped ++ s.out).length =
        frames * s.frameLen + ((List.range s.cifctr.toNat).map (fun c => s.cifLen c)).sum

/-- Whole CIFs only: the number of bytes output so far is the sum of the lengths of the CIFs emitted so far, a multiple of
the one CIF length when `uniform(MODE)` (R142). -/
def Obligations.OutputIsWholeCifs : Prop :=
  ∀ (P : Params) (s : State) (h : History), P.Admissible → Reachable P s h → s.Configured →
    (h.popped ++ s.out).length = ((List.range h.emits).map (fun j => s.cifLen (j % s.cifsPerFrame))).sum ∧
      ((∀ c d, c < s.cifsPerFrame → d < s.cifsPerFrame → s.hw.sched s.mode c = s.hw.sched s.mode d) →
        (h.popped ++ s.out).length = h.emits * s.cifLen 0)

/-- The number of EMITs is at most the most the inputs allow, and exactly that in a quiescent state, which is END iff an
ended port is short for the next CIF (R145 items 2 and 3). -/
def Obligations.QuiescentMeansMaximal : Prop :=
  ∀ (P : Params) (s : State) (h : History), P.Admissible → Reachable P s h → s.Configured →
    (∀ p, p ≤ s.numSub → s.cum p h.emits ≤ (h.pushed p).length) ∧
      (s.Quiescent →
        (∀ k, (∀ p, p ≤ s.numSub → s.cum p k ≤ (h.pushed p).length) → k ≤ h.emits) ∧
          (s.life = .ended ↔
            ∃ p, p ≤ s.numSub ∧ s.eosf p = true ∧ (h.pushed p).length < s.cum p (h.emits + 1)))

/-- Determinism: two runs with the same configuration and the same bytes pushed on each port, whatever the interleaving,
have output the same bytes once nothing more can be assembled (R64, R145). -/
def Obligations.OutputIsDetermined : Prop :=
  ∀ (P : Params) (s s' : State) (h h' : History), P.Admissible → Reachable P s h → Reachable P s' h' →
    s.Configured → s'.Configured → SameConfig s s' → s.Quiescent → s'.Quiescent →
    (∀ p, p ≤ s.numSub → h.pushed p = h'.pushed p) →
    h.emits = h'.emits ∧ h.popped ++ s.out = h'.popped ++ s'.out

/-! ### What the MUX does not depend on -/

/-- The MUX never looks inside a byte: changing every data byte by one function before an operation is the same as
changing it after, including whether the operation has a step (R50, R140). -/
def Obligations.DataBytesAreOpaque : Prop :=
  ∀ (f : Byte → Byte) (i : Instr) (s : State),
    exec (mapByteInstr f i) (s.mapBytes f) = mapNext (State.mapBytes f) (exec i s)

/-- No rule depends on FRMCTR but the register that reads it: with another FRMCTR every operation does the same to all
else, and has a step exactly when it had one (R31, C5). -/
def Obligations.FrameCounterIsUnused : Prop :=
  ∀ (i : Instr) (s : State) (f : BitVec 32),
    (∀ t, exec i s = .next t → ∃ t', exec i { s with frmctr := f } = .next t' ∧
      { t' with frmctr := t.frmctr, response := t.response } = t ∧
      (i ≠ .rdsrFrmctr → t'.response = t.response)) ∧
    (∀ r, exec i s = .fault r → exec i { s with frmctr := f } = .fault r)

/-! ### The mode table -/

/-- What is looked up for a mode is what its row of MODE_TABLE says: `cifs`, `fbs`, `cap`, and `sched(m, c)` the `c`-th
entry of the row's schedule; `has_fic` and `uniform` are what R9 says of that schedule. Only the identifiers of rows are
modes. Of a mode outside MODES, where the spec gives the functions no value, it says no more than that (R8, R9; that
a table is a list of rows with distinct identifiers is the model's form, assumption log 11). -/
def Obligations.ModeTableLookups : Prop :=
  ∀ P : Params, P.IdsDistinct →
    (∀ m, P.isMode m = true ↔ ∃ r ∈ P.modes, r.id = m) ∧
    ∀ r ∈ P.modes,
      P.cifs r.id = r.sched.length ∧ P.fbs r.id = r.fbs ∧ P.cap r.id = r.cap ∧
      (∀ c, c < r.sched.length → r.sched[c]? = some (P.sched r.id c)) ∧
      (P.hasFic r.id = true ↔ true ∈ r.sched) ∧
      (P.uniform r.id = true ↔ ∀ a ∈ r.sched, ∀ b ∈ r.sched, a = b)

end
end

