-- ==== Sys2Proof/Laws/Decode.lean ====
section
/-! SUPPORT. The fields of a transaction word: reading a field of an assembled word, assembling a word from its fields, and
masking field by field. -/
namespace Sys2Proof

/-- The bits of a transaction word, field by field (R77). -/
theorem mkWord_getLsbD (o : BitVec 4) (p : BitVec 8) (d : BitVec 16) (j : Nat) : (mkWord o p d).getLsbD j =
    if j < 16 then d.getLsbD j else if j < 20 then false else if j < 28 then p.getLsbD (j - 20)
    else o.getLsbD (j - 28) := by
  change BitVec.getLsbD (w := ((4+8)+4)+16) (((o ++ p) ++ (0#4)) ++ d) j = _
  rw [BitVec.getLsbD_append, BitVec.getLsbD_append, BitVec.getLsbD_append]
  by_cases h1 : j < 16
  · simp [h1]
  · by_cases h2 : j < 20
    · have : j - 16 < 4 := by omega
      simp [h1, h2, this]
    · by_cases h3 : j < 28
      · have h4 : ¬ j - 16 < 4 := by omega
        have h6 : j - 16 - 4 = j - 20 := by omega
        simp [h1, h2, h3, h4, h6]; omega
      · have h4 : ¬ j - 16 < 4 := by omega
        have h5 : ¬ j - 16 - 4 < 8 := by omega
        have h6 : j - 16 - 4 - 8 = j - 28 := by omega
        simp [h1, h2, h3, h4, h5, h6]

/-- `op` of an assembled word (R77). -/
@[simp] theorem fieldOp_mkWord (o : BitVec 4) (p : BitVec 8) (d : BitVec 16) : fieldOp (mkWord o p d) = o := by
  unfold fieldOp
  ext i hi
  simp only [BitVec.getElem_extractLsb', mkWord_getLsbD]
  simp [show ¬ 28 + i < 16 by omega, show ¬ 28 + i < 20 by omega, show ¬ 28 + i < 28 by omega, BitVec.getLsbD_eq_getElem hi]

/-- `port` of an assembled word (R77). -/
@[simp] theorem fieldPort_mkWord (o : BitVec 4) (p : BitVec 8) (d : BitVec 16) : fieldPort (mkWord o p d) = p := by
  unfold fieldPort
  ext i hi
  simp only [BitVec.getElem_extractLsb', mkWord_getLsbD]
  simp [show ¬ 20 + i < 16 by omega, show 20 + i < 28 by omega, hi]

/-- `rsv` of an assembled word is 0 (R77). -/
@[simp] theorem fieldRsv_mkWord (o : BitVec 4) (p : BitVec 8) (d : BitVec 16) : fieldRsv (mkWord o p d) = 0 := by
  unfold fieldRsv
  ext i hi
  simp only [BitVec.getElem_extractLsb', mkWord_getLsbD]
  simp [show 16 + i < 20 by omega]

/-- `opd` of an assembled word (R77). -/
@[simp] theorem fieldOpd_mkWord (o : BitVec 4) (p : BitVec 8) (d : BitVec 16) : fieldOpd (mkWord o p d) = d := by
  unfold fieldOpd
  ext i hi
  simp only [BitVec.getElem_extractLsb', mkWord_getLsbD]
  simp [hi]

/-- The bits of an 8-bit operand in `opd`. -/
theorem opdByte_getLsbD (b : BitVec 8) (j : Nat) : (opdByte b).getLsbD j = b.getLsbD j := by
  change BitVec.getLsbD (w := 8 + 8) ((0#8) ++ b) j = _
  rw [BitVec.getLsbD_append]
  by_cases h : j < 8
  · simp [h]
  · simp [h]; exact BitVec.getLsbD_of_ge b j (by omega)

/-- `opd[7:0]` of an 8-bit operand. -/
@[simp] theorem fieldOpdLo_mkWord (o : BitVec 4) (p b : BitVec 8) : fieldOpdLo (mkWord o p (opdByte b)) = b := by
  unfold fieldOpdLo
  ext i hi
  simp only [BitVec.getElem_extractLsb', mkWord_getLsbD, opdByte_getLsbD]
  simp [show i < 16 by omega, hi]

/-- `opd[15:8]` of an 8-bit operand is 0. -/
@[simp] theorem fieldOpdHi_mkWord (o : BitVec 4) (p b : BitVec 8) : fieldOpdHi (mkWord o p (opdByte b)) = 0 := by
  unfold fieldOpdHi
  ext i hi
  simp only [BitVec.getElem_extractLsb', mkWord_getLsbD, opdByte_getLsbD]
  simp [show 8 + i < 16 by omega]

/-- A word whose `rsv` is 0 is assembled from its fields (R77). -/
theorem mkWord_fields (w : Word) (h : fieldRsv w = 0) : mkWord (fieldOp w) (fieldPort w) (fieldOpd w) = w := by
  apply BitVec.eq_of_getLsbD_eq
  intro j hj
  rw [mkWord_getLsbD]
  have hr : ∀ k, k < 4 → w.getLsbD (16 + k) = false := by
    intro k hk
    have := congrArg (fun v => v.getLsbD k) h
    simpa [fieldRsv, hk] using this
  by_cases h1 : j < 16
  · simp [h1, fieldOpd]
  · by_cases h2 : j < 20
    · have := hr (j - 16) (by omega)
      rw [show 16 + (j - 16) = j by omega] at this
      simp [h1, h2, this]
    · by_cases h3 : j < 28
      · simp [h1, h2, h3, fieldPort, show j - 20 < 8 by omega, show 20 + (j - 20) = j by omega]
      · simp [h1, h2, h3, fieldOp, show j - 28 < 4 by omega, show 28 + (j - 28) = j by omega]

/-- An `opd` whose upper byte is 0 is its lower byte. -/
theorem opdByte_fieldOpdLo (w : Word) (h : fieldOpdHi w = 0) : opdByte (fieldOpdLo w) = fieldOpd w := by
  apply BitVec.eq_of_getLsbD_eq
  intro j hj
  rw [opdByte_getLsbD]
  by_cases h1 : j < 8
  · simp [fieldOpdLo, fieldOpd, h1, hj]
  · have := congrArg (fun v => v.getLsbD (j - 8)) h
    simp only [fieldOpdHi, BitVec.getLsbD_extractLsb', show j - 8 < 8 by omega, show 8 + (j - 8) = j by omega] at this
    simp [fieldOpdLo, fieldOpd, h1, hj] at this ⊢
    exact this

/-- Masking a word masks its fields (R80). -/
theorem mkWord_and (o : BitVec 4) (p : BitVec 8) (d : BitVec 16) (m : Word) :
    mkWord o p d &&& m = mkWord (o &&& fieldOp m) (p &&& fieldPort m) (d &&& fieldOpd m) := by
  apply BitVec.eq_of_getLsbD_eq
  intro j hj
  rw [BitVec.getLsbD_and, mkWord_getLsbD, mkWord_getLsbD]
  by_cases h1 : j < 16
  · simp [h1, fieldOpd]
  · by_cases h2 : j < 20
    · simp [h1, h2]
    · by_cases h3 : j < 28
      · simp [h1, h2, h3, fieldPort, show j - 20 < 8 by omega, show 20 + (j - 20) = j by omega]
      · simp [h1, h2, h3, fieldOp, show j - 28 < 4 by omega, show 28 + (j - 28) = j by omega]

/-- Masking an 8-bit operand masks its byte. -/
theorem opdByte_and (b : BitVec 8) (x : BitVec 16) : opdByte b &&& x = opdByte (b &&& x.extractLsb' 0 8) := by
  apply BitVec.eq_of_getLsbD_eq
  intro j hj
  rw [BitVec.getLsbD_and, opdByte_getLsbD, opdByte_getLsbD, BitVec.getLsbD_and, BitVec.getLsbD_extractLsb']
  by_cases h : j < 8
  · simp [h]
  · simp [h]; exact fun h' => absurd h' (by simp [BitVec.getLsbD_of_ge b j (by omega)])

/-- Two words with `rsv = 0` are equal iff their fields are. -/
theorem mkWord_eq_iff (o o' : BitVec 4) (p p' : BitVec 8) (d d' : BitVec 16) : mkWord o p d = mkWord o' p' d' ↔ o = o' ∧ p = p' ∧ d = d' := by
  constructor
  · intro h
    exact ⟨by rw [← fieldOp_mkWord o p d, h, fieldOp_mkWord], by rw [← fieldPort_mkWord o p d, h, fieldPort_mkWord],
      by rw [← fieldOpd_mkWord o p d, h, fieldOpd_mkWord]⟩
  · rintro ⟨rfl, rfl, rfl⟩; rfl

end Sys2Proof
end

