-- ==== Sys2Proof/Laws/State.lean ====
section
/-! SUPPORT. What each update does to each field of State, one lemma per field per update. -/
namespace Sys2Proof.Machine

section silent

@[simp] theorem State.silent_hw (s : State) : s.silent.hw = s.hw := rfl
@[simp] theorem State.silent_life (s : State) : s.silent.life = s.life := rfl
@[simp] theorem State.silent_mode (s : State) : s.silent.mode = s.mode := rfl
@[simp] theorem State.silent_count (s : State) : s.silent.count = s.count := rfl
@[simp] theorem State.silent_listLen (s : State) : s.silent.listLen = s.listLen := rfl
@[simp] theorem State.silent_sizes (s : State) : s.silent.sizes = s.sizes := rfl
@[simp] theorem State.silent_ports (s : State) : s.silent.ports = s.ports := rfl
@[simp] theorem State.silent_out (s : State) : s.silent.out = s.out := rfl
@[simp] theorem State.silent_cifctr (s : State) : s.silent.cifctr = s.cifctr := rfl
@[simp] theorem State.silent_frmctr (s : State) : s.silent.frmctr = s.frmctr := rfl
@[simp] theorem State.silent_err (s : State) : s.silent.err = s.err := rfl
@[simp] theorem State.silent_response (s : State) : s.silent.response = none := rfl
@[simp] theorem State.silent_trace (s : State) : s.silent.trace = s.trace := rfl

end silent

section respond

@[simp] theorem State.respond_hw (s : State) (v : Response) : (s.respond v).hw = s.hw := rfl
@[simp] theorem State.respond_life (s : State) (v : Response) : (s.respond v).life = s.life := rfl
@[simp] theorem State.respond_mode (s : State) (v : Response) : (s.respond v).mode = s.mode := rfl
@[simp] theorem State.respond_count (s : State) (v : Response) : (s.respond v).count = s.count := rfl
@[simp] theorem State.respond_listLen (s : State) (v : Response) : (s.respond v).listLen = s.listLen := rfl
@[simp] theorem State.respond_sizes (s : State) (v : Response) : (s.respond v).sizes = s.sizes := rfl
@[simp] theorem State.respond_ports (s : State) (v : Response) : (s.respond v).ports = s.ports := rfl
@[simp] theorem State.respond_out (s : State) (v : Response) : (s.respond v).out = s.out := rfl
@[simp] theorem State.respond_cifctr (s : State) (v : Response) : (s.respond v).cifctr = s.cifctr := rfl
@[simp] theorem State.respond_frmctr (s : State) (v : Response) : (s.respond v).frmctr = s.frmctr := rfl
@[simp] theorem State.respond_err (s : State) (v : Response) : (s.respond v).err = s.err := rfl
@[simp] theorem State.respond_response (s : State) (v : Response) : (s.respond v).response = some v := rfl
@[simp] theorem State.respond_trace (s : State) (v : Response) : (s.respond v).trace = s.trace := rfl

end respond

section setPort

@[simp] theorem State.setPort_hw (s : State) (p : Nat) (q : Port) : (s.setPort p q).hw = s.hw := rfl
@[simp] theorem State.setPort_life (s : State) (p : Nat) (q : Port) : (s.setPort p q).life = s.life := rfl
@[simp] theorem State.setPort_mode (s : State) (p : Nat) (q : Port) : (s.setPort p q).mode = s.mode := rfl
@[simp] theorem State.setPort_count (s : State) (p : Nat) (q : Port) : (s.setPort p q).count = s.count := rfl
@[simp] theorem State.setPort_listLen (s : State) (p : Nat) (q : Port) : (s.setPort p q).listLen = s.listLen := rfl
@[simp] theorem State.setPort_sizes (s : State) (p : Nat) (q : Port) : (s.setPort p q).sizes = s.sizes := rfl
@[simp] theorem State.setPort_ports (s : State) (p : Nat) (q : Port) : (s.setPort p q).ports = s.ports.set p q := rfl
@[simp] theorem State.setPort_out (s : State) (p : Nat) (q : Port) : (s.setPort p q).out = s.out := rfl
@[simp] theorem State.setPort_cifctr (s : State) (p : Nat) (q : Port) : (s.setPort p q).cifctr = s.cifctr := rfl
@[simp] theorem State.setPort_frmctr (s : State) (p : Nat) (q : Port) : (s.setPort p q).frmctr = s.frmctr := rfl
@[simp] theorem State.setPort_err (s : State) (p : Nat) (q : Port) : (s.setPort p q).err = s.err := rfl
@[simp] theorem State.setPort_response (s : State) (p : Nat) (q : Port) : (s.setPort p q).response = s.response := rfl
@[simp] theorem State.setPort_trace (s : State) (p : Nat) (q : Port) : (s.setPort p q).trace = s.trace := rfl

end setPort

section mapPorts

@[simp] theorem State.mapPorts_hw (s : State) (f : Nat → Port → Port) : (s.mapPorts f).hw = s.hw := rfl
@[simp] theorem State.mapPorts_life (s : State) (f : Nat → Port → Port) : (s.mapPorts f).life = s.life := rfl
@[simp] theorem State.mapPorts_mode (s : State) (f : Nat → Port → Port) : (s.mapPorts f).mode = s.mode := rfl
@[simp] theorem State.mapPorts_count (s : State) (f : Nat → Port → Port) : (s.mapPorts f).count = s.count := rfl
@[simp] theorem State.mapPorts_listLen (s : State) (f : Nat → Port → Port) : (s.mapPorts f).listLen = s.listLen := rfl
@[simp] theorem State.mapPorts_sizes (s : State) (f : Nat → Port → Port) : (s.mapPorts f).sizes = s.sizes := rfl
@[simp] theorem State.mapPorts_ports (s : State) (f : Nat → Port → Port) : (s.mapPorts f).ports = s.ports.mapIdx f := rfl
@[simp] theorem State.mapPorts_out (s : State) (f : Nat → Port → Port) : (s.mapPorts f).out = s.out := rfl
@[simp] theorem State.mapPorts_cifctr (s : State) (f : Nat → Port → Port) : (s.mapPorts f).cifctr = s.cifctr := rfl
@[simp] theorem State.mapPorts_frmctr (s : State) (f : Nat → Port → Port) : (s.mapPorts f).frmctr = s.frmctr := rfl
@[simp] theorem State.mapPorts_err (s : State) (f : Nat → Port → Port) : (s.mapPorts f).err = s.err := rfl
@[simp] theorem State.mapPorts_response (s : State) (f : Nat → Port → Port) : (s.mapPorts f).response = s.response := rfl
@[simp] theorem State.mapPorts_trace (s : State) (f : Nat → Port → Port) : (s.mapPorts f).trace = s.trace := rfl

end mapPorts

section setSize

@[simp] theorem State.setSize_hw (s : State) (i : Nat) (v : BitVec 16) : (s.setSize i v).hw = s.hw := rfl
@[simp] theorem State.setSize_life (s : State) (i : Nat) (v : BitVec 16) : (s.setSize i v).life = s.life := rfl
@[simp] theorem State.setSize_mode (s : State) (i : Nat) (v : BitVec 16) : (s.setSize i v).mode = s.mode := rfl
@[simp] theorem State.setSize_count (s : State) (i : Nat) (v : BitVec 16) : (s.setSize i v).count = s.count := rfl
@[simp] theorem State.setSize_listLen (s : State) (i : Nat) (v : BitVec 16) : (s.setSize i v).listLen = s.listLen := rfl
@[simp] theorem State.setSize_sizes (s : State) (i : Nat) (v : BitVec 16) : (s.setSize i v).sizes = s.sizes.set i v := rfl
@[simp] theorem State.setSize_ports (s : State) (i : Nat) (v : BitVec 16) : (s.setSize i v).ports = s.ports := rfl
@[simp] theorem State.setSize_out (s : State) (i : Nat) (v : BitVec 16) : (s.setSize i v).out = s.out := rfl
@[simp] theorem State.setSize_cifctr (s : State) (i : Nat) (v : BitVec 16) : (s.setSize i v).cifctr = s.cifctr := rfl
@[simp] theorem State.setSize_frmctr (s : State) (i : Nat) (v : BitVec 16) : (s.setSize i v).frmctr = s.frmctr := rfl
@[simp] theorem State.setSize_err (s : State) (i : Nat) (v : BitVec 16) : (s.setSize i v).err = s.err := rfl
@[simp] theorem State.setSize_response (s : State) (i : Nat) (v : BitVec 16) : (s.setSize i v).response = s.response := rfl
@[simp] theorem State.setSize_trace (s : State) (i : Nat) (v : BitVec 16) : (s.setSize i v).trace = s.trace := rfl

end setSize

section setPc

@[simp] theorem State.setPc_hw (s : State) (f : BitVec 32) (c : BitVec 8) : (s.setPc f c).hw = s.hw := rfl
@[simp] theorem State.setPc_life (s : State) (f : BitVec 32) (c : BitVec 8) : (s.setPc f c).life = s.life := rfl
@[simp] theorem State.setPc_mode (s : State) (f : BitVec 32) (c : BitVec 8) : (s.setPc f c).mode = s.mode := rfl
@[simp] theorem State.setPc_count (s : State) (f : BitVec 32) (c : BitVec 8) : (s.setPc f c).count = s.count := rfl
@[simp] theorem State.setPc_listLen (s : State) (f : BitVec 32) (c : BitVec 8) : (s.setPc f c).listLen = s.listLen := rfl
@[simp] theorem State.setPc_sizes (s : State) (f : BitVec 32) (c : BitVec 8) : (s.setPc f c).sizes = s.sizes := rfl
@[simp] theorem State.setPc_ports (s : State) (f : BitVec 32) (c : BitVec 8) : (s.setPc f c).ports = s.ports := rfl
@[simp] theorem State.setPc_out (s : State) (f : BitVec 32) (c : BitVec 8) : (s.setPc f c).out = s.out := rfl
@[simp] theorem State.setPc_cifctr (s : State) (f : BitVec 32) (c : BitVec 8) : (s.setPc f c).cifctr = c := rfl
@[simp] theorem State.setPc_frmctr (s : State) (f : BitVec 32) (c : BitVec 8) : (s.setPc f c).frmctr = f := rfl
@[simp] theorem State.setPc_err (s : State) (f : BitVec 32) (c : BitVec 8) : (s.setPc f c).err = s.err := rfl
@[simp] theorem State.setPc_response (s : State) (f : BitVec 32) (c : BitVec 8) : (s.setPc f c).response = s.response := rfl
@[simp] theorem State.setPc_trace (s : State) (f : BitVec 32) (c : BitVec 8) : (s.setPc f c).trace = s.trace := rfl

end setPc

section raiseConfigurationError

@[simp] theorem State.raiseConfigurationError_hw (s : State) (e : ConfigError) : (s.raiseConfigurationError e).hw = s.hw := rfl
@[simp] theorem State.raiseConfigurationError_life (s : State) (e : ConfigError) : (s.raiseConfigurationError e).life = .cfgErr := rfl
@[simp] theorem State.raiseConfigurationError_mode (s : State) (e : ConfigError) : (s.raiseConfigurationError e).mode = s.mode := rfl
@[simp] theorem State.raiseConfigurationError_count (s : State) (e : ConfigError) : (s.raiseConfigurationError e).count = s.count := rfl
@[simp] theorem State.raiseConfigurationError_listLen (s : State) (e : ConfigError) : (s.raiseConfigurationError e).listLen = s.listLen := rfl
@[simp] theorem State.raiseConfigurationError_sizes (s : State) (e : ConfigError) : (s.raiseConfigurationError e).sizes = s.sizes := rfl
@[simp] theorem State.raiseConfigurationError_ports (s : State) (e : ConfigError) : (s.raiseConfigurationError e).ports = s.ports := rfl
@[simp] theorem State.raiseConfigurationError_out (s : State) (e : ConfigError) : (s.raiseConfigurationError e).out = s.out := rfl
@[simp] theorem State.raiseConfigurationError_cifctr (s : State) (e : ConfigError) : (s.raiseConfigurationError e).cifctr = s.cifctr := rfl
@[simp] theorem State.raiseConfigurationError_frmctr (s : State) (e : ConfigError) : (s.raiseConfigurationError e).frmctr = s.frmctr := rfl
@[simp] theorem State.raiseConfigurationError_err (s : State) (e : ConfigError) : (s.raiseConfigurationError e).err = e.code := rfl
@[simp] theorem State.raiseConfigurationError_response (s : State) (e : ConfigError) : (s.raiseConfigurationError e).response = s.response := rfl
@[simp] theorem State.raiseConfigurationError_trace (s : State) (e : ConfigError) : (s.raiseConfigurationError e).trace = s.trace := rfl

end raiseConfigurationError

section raiseEndOfStream

@[simp] theorem State.raiseEndOfStream_hw (s : State) : s.raiseEndOfStream.hw = s.hw := rfl
@[simp] theorem State.raiseEndOfStream_life (s : State) : s.raiseEndOfStream.life = .ended := rfl
@[simp] theorem State.raiseEndOfStream_mode (s : State) : s.raiseEndOfStream.mode = s.mode := rfl
@[simp] theorem State.raiseEndOfStream_count (s : State) : s.raiseEndOfStream.count = s.count := rfl
@[simp] theorem State.raiseEndOfStream_listLen (s : State) : s.raiseEndOfStream.listLen = s.listLen := rfl
@[simp] theorem State.raiseEndOfStream_sizes (s : State) : s.raiseEndOfStream.sizes = s.sizes := rfl
@[simp] theorem State.raiseEndOfStream_ports (s : State) : s.raiseEndOfStream.ports = s.ports.mapIdx s.endPort := rfl
@[simp] theorem State.raiseEndOfStream_out (s : State) : s.raiseEndOfStream.out = s.out := rfl
@[simp] theorem State.raiseEndOfStream_cifctr (s : State) : s.raiseEndOfStream.cifctr = s.cifctr := rfl
@[simp] theorem State.raiseEndOfStream_frmctr (s : State) : s.raiseEndOfStream.frmctr = s.frmctr := rfl
@[simp] theorem State.raiseEndOfStream_err (s : State) : s.raiseEndOfStream.err = s.err := rfl
@[simp] theorem State.raiseEndOfStream_response (s : State) : s.raiseEndOfStream.response = s.response := rfl
@[simp] theorem State.raiseEndOfStream_trace (s : State) : s.raiseEndOfStream.trace = s.trace := rfl

end raiseEndOfStream

section resetAll

@[simp] theorem State.resetAll_hw (s : State) : s.resetAll.hw = s.hw := rfl
@[simp] theorem State.resetAll_life (s : State) : s.resetAll.life = .idle := rfl
@[simp] theorem State.resetAll_mode (s : State) : s.resetAll.mode = 0 := rfl
@[simp] theorem State.resetAll_count (s : State) : s.resetAll.count = 0 := rfl
@[simp] theorem State.resetAll_listLen (s : State) : s.resetAll.listLen = 0 := rfl
@[simp] theorem State.resetAll_sizes (s : State) : s.resetAll.sizes = List.replicate s.hw.nsubMax 0 := rfl
@[simp] theorem State.resetAll_ports (s : State) : s.resetAll.ports = List.replicate (s.hw.nsubMax + 1) {} := rfl
@[simp] theorem State.resetAll_out (s : State) : s.resetAll.out = [] := rfl
@[simp] theorem State.resetAll_cifctr (s : State) : s.resetAll.cifctr = 0 := rfl
@[simp] theorem State.resetAll_frmctr (s : State) : s.resetAll.frmctr = 0 := rfl
@[simp] theorem State.resetAll_err (s : State) : s.resetAll.err = 0 := rfl
@[simp] theorem State.resetAll_response (s : State) : s.resetAll.response = none := rfl
@[simp] theorem State.resetAll_trace (s : State) : s.resetAll.trace = s.trace := rfl

end resetAll

section pushByte

@[simp] theorem State.pushByte_hw (s : State) (p : Nat) (b : Byte) : (s.pushByte p b).hw = s.hw := rfl
@[simp] theorem State.pushByte_life (s : State) (p : Nat) (b : Byte) : (s.pushByte p b).life = s.life := rfl
@[simp] theorem State.pushByte_mode (s : State) (p : Nat) (b : Byte) : (s.pushByte p b).mode = s.mode := rfl
@[simp] theorem State.pushByte_count (s : State) (p : Nat) (b : Byte) : (s.pushByte p b).count = s.count := rfl
@[simp] theorem State.pushByte_listLen (s : State) (p : Nat) (b : Byte) : (s.pushByte p b).listLen = s.listLen := rfl
@[simp] theorem State.pushByte_sizes (s : State) (p : Nat) (b : Byte) : (s.pushByte p b).sizes = s.sizes := rfl
@[simp] theorem State.pushByte_ports (s : State) (p : Nat) (b : Byte) : (s.pushByte p b).ports = s.ports.set p { s.port p with fifo := s.fifo p ++ [b] } := rfl
@[simp] theorem State.pushByte_out (s : State) (p : Nat) (b : Byte) : (s.pushByte p b).out = s.out := rfl
@[simp] theorem State.pushByte_cifctr (s : State) (p : Nat) (b : Byte) : (s.pushByte p b).cifctr = s.cifctr := rfl
@[simp] theorem State.pushByte_frmctr (s : State) (p : Nat) (b : Byte) : (s.pushByte p b).frmctr = s.frmctr := rfl
@[simp] theorem State.pushByte_err (s : State) (p : Nat) (b : Byte) : (s.pushByte p b).err = s.err := rfl
@[simp] theorem State.pushByte_response (s : State) (p : Nat) (b : Byte) : (s.pushByte p b).response = s.response := rfl
@[simp] theorem State.pushByte_trace (s : State) (p : Nat) (b : Byte) : (s.pushByte p b).trace = s.trace := rfl

end pushByte

section setEos

@[simp] theorem State.setEos_hw (s : State) (p : Nat) : (s.setEos p).hw = s.hw := rfl
@[simp] theorem State.setEos_life (s : State) (p : Nat) : (s.setEos p).life = s.life := rfl
@[simp] theorem State.setEos_mode (s : State) (p : Nat) : (s.setEos p).mode = s.mode := rfl
@[simp] theorem State.setEos_count (s : State) (p : Nat) : (s.setEos p).count = s.count := rfl
@[simp] theorem State.setEos_listLen (s : State) (p : Nat) : (s.setEos p).listLen = s.listLen := rfl
@[simp] theorem State.setEos_sizes (s : State) (p : Nat) : (s.setEos p).sizes = s.sizes := rfl
@[simp] theorem State.setEos_ports (s : State) (p : Nat) : (s.setEos p).ports = s.ports.set p { s.port p with eosf := true } := rfl
@[simp] theorem State.setEos_out (s : State) (p : Nat) : (s.setEos p).out = s.out := rfl
@[simp] theorem State.setEos_cifctr (s : State) (p : Nat) : (s.setEos p).cifctr = s.cifctr := rfl
@[simp] theorem State.setEos_frmctr (s : State) (p : Nat) : (s.setEos p).frmctr = s.frmctr := rfl
@[simp] theorem State.setEos_err (s : State) (p : Nat) : (s.setEos p).err = s.err := rfl
@[simp] theorem State.setEos_response (s : State) (p : Nat) : (s.setEos p).response = s.response := rfl
@[simp] theorem State.setEos_trace (s : State) (p : Nat) : (s.setEos p).trace = s.trace := rfl

end setEos

section emit

@[simp] theorem State.emit_hw (s : State) : s.emit.hw = s.hw := rfl
@[simp] theorem State.emit_life (s : State) : s.emit.life = s.life := rfl
@[simp] theorem State.emit_mode (s : State) : s.emit.mode = s.mode := rfl
@[simp] theorem State.emit_count (s : State) : s.emit.count = s.count := rfl
@[simp] theorem State.emit_listLen (s : State) : s.emit.listLen = s.listLen := rfl
@[simp] theorem State.emit_sizes (s : State) : s.emit.sizes = s.sizes := rfl
@[simp] theorem State.emit_ports (s : State) : s.emit.ports = s.ports.mapIdx (s.drainPort s.cifctr.toNat) := rfl
@[simp] theorem State.emit_out (s : State) : s.emit.out = s.out ++ s.assembled s.cifctr.toNat := rfl
@[simp] theorem State.emit_cifctr (s : State) : s.emit.cifctr = s.nextCif := rfl
@[simp] theorem State.emit_frmctr (s : State) : s.emit.frmctr = s.nextFrame := rfl
@[simp] theorem State.emit_err (s : State) : s.emit.err = s.err := rfl
@[simp] theorem State.emit_response (s : State) : s.emit.response = s.response := rfl
@[simp] theorem State.emit_trace (s : State) : s.emit.trace = s.trace := rfl

end emit

section resetWith

@[simp] theorem State.resetWith_hw (P : Params) : (State.resetWith P).hw = P := rfl
@[simp] theorem State.resetWith_life (P : Params) : (State.resetWith P).life = .idle := rfl
@[simp] theorem State.resetWith_mode (P : Params) : (State.resetWith P).mode = 0 := rfl
@[simp] theorem State.resetWith_count (P : Params) : (State.resetWith P).count = 0 := rfl
@[simp] theorem State.resetWith_listLen (P : Params) : (State.resetWith P).listLen = 0 := rfl
@[simp] theorem State.resetWith_sizes (P : Params) : (State.resetWith P).sizes = List.replicate P.nsubMax 0 := rfl
@[simp] theorem State.resetWith_ports (P : Params) : (State.resetWith P).ports = List.replicate (P.nsubMax + 1) {} := rfl
@[simp] theorem State.resetWith_out (P : Params) : (State.resetWith P).out = [] := rfl
@[simp] theorem State.resetWith_cifctr (P : Params) : (State.resetWith P).cifctr = 0 := rfl
@[simp] theorem State.resetWith_frmctr (P : Params) : (State.resetWith P).frmctr = 0 := rfl
@[simp] theorem State.resetWith_err (P : Params) : (State.resetWith P).err = 0 := rfl
@[simp] theorem State.resetWith_response (P : Params) : (State.resetWith P).response = none := rfl
@[simp] theorem State.resetWith_trace (P : Params) : (State.resetWith P).trace = [] := rfl

end resetWith

section appendSize

@[simp] theorem State.appendSize_hw (s : State) (v : BitVec 16) : (s.appendSize v).hw = s.hw := by
  unfold State.appendSize; split <;> rfl
@[simp] theorem State.appendSize_life (s : State) (v : BitVec 16) : (s.appendSize v).life = s.life := by
  unfold State.appendSize; split <;> rfl
@[simp] theorem State.appendSize_mode (s : State) (v : BitVec 16) : (s.appendSize v).mode = s.mode := by
  unfold State.appendSize; split <;> rfl
@[simp] theorem State.appendSize_count (s : State) (v : BitVec 16) : (s.appendSize v).count = s.count := by
  unfold State.appendSize; split <;> rfl
@[simp] theorem State.appendSize_ports (s : State) (v : BitVec 16) : (s.appendSize v).ports = s.ports := by
  unfold State.appendSize; split <;> rfl
@[simp] theorem State.appendSize_out (s : State) (v : BitVec 16) : (s.appendSize v).out = s.out := by
  unfold State.appendSize; split <;> rfl
@[simp] theorem State.appendSize_cifctr (s : State) (v : BitVec 16) : (s.appendSize v).cifctr = s.cifctr := by
  unfold State.appendSize; split <;> rfl
@[simp] theorem State.appendSize_frmctr (s : State) (v : BitVec 16) : (s.appendSize v).frmctr = s.frmctr := by
  unfold State.appendSize; split <;> rfl
@[simp] theorem State.appendSize_err (s : State) (v : BitVec 16) : (s.appendSize v).err = s.err := by
  unfold State.appendSize; split <;> rfl
@[simp] theorem State.appendSize_response (s : State) (v : BitVec 16) : (s.appendSize v).response = s.response := by
  unfold State.appendSize; split <;> rfl
@[simp] theorem State.appendSize_trace (s : State) (v : BitVec 16) : (s.appendSize v).trace = s.trace := by
  unfold State.appendSize; split <;> rfl
@[simp] theorem State.appendSize_listLen (s : State) (v : BitVec 16) :
    (s.appendSize v).listLen = bumpListLen s.listLen := rfl
@[simp] theorem State.appendSize_sizes (s : State) (v : BitVec 16) :
    (s.appendSize v).sizes = if s.listLen.toNat < s.hw.nsubMax then s.sizes.set s.listLen.toNat v else s.sizes := by
  unfold State.appendSize; split <;> rfl

end appendSize

section construct

@[simp] theorem State.construct_hw (s : State) : s.construct.hw = s.hw := by
  unfold State.construct; split <;> rfl
@[simp] theorem State.construct_mode (s : State) : s.construct.mode = s.mode := by
  unfold State.construct; split <;> rfl
@[simp] theorem State.construct_count (s : State) : s.construct.count = s.count := by
  unfold State.construct; split <;> rfl
@[simp] theorem State.construct_listLen (s : State) : s.construct.listLen = s.listLen := by
  unfold State.construct; split <;> rfl
@[simp] theorem State.construct_sizes (s : State) : s.construct.sizes = s.sizes := by
  unfold State.construct; split <;> rfl
@[simp] theorem State.construct_ports (s : State) : s.construct.ports = s.ports := by
  unfold State.construct; split <;> rfl
@[simp] theorem State.construct_out (s : State) : s.construct.out = s.out := by
  unfold State.construct; split <;> rfl
@[simp] theorem State.construct_cifctr (s : State) : s.construct.cifctr = s.cifctr := by
  unfold State.construct; split <;> rfl
@[simp] theorem State.construct_frmctr (s : State) : s.construct.frmctr = s.frmctr := by
  unfold State.construct; split <;> rfl
@[simp] theorem State.construct_response (s : State) : s.construct.response = s.response := by
  unfold State.construct; split <;> rfl
@[simp] theorem State.construct_trace (s : State) : s.construct.trace = s.trace := by
  unfold State.construct; split <;> rfl

/-- What construction can do: take the ConfigurationError of the first failing check, or enter RUN. -/
theorem State.construct_cases (s : State) :
    (∃ e, s.configFailure = some e ∧ s.construct = s.raiseConfigurationError e) ∨
      (s.configFailure = none ∧ s.construct = { s with life := .run }) := by
  unfold State.construct
  cases h : s.configFailure with
  | none => exact .inr ⟨rfl, rfl⟩
  | some e => exact .inl ⟨e, rfl, rfl⟩

end construct

end Sys2Proof.Machine
end

