-- ==== Sys2Proof/Laws/Operands.lean ====
section
/-! SUPPORT. What the operand functions of R9 and the port accessors read after each update, and what the predicates of
R128 to R131 say. -/
namespace Sys2Proof.Machine

section silent

@[simp] theorem State.silent_numSub (s : State) : s.silent.numSub = s.numSub := rfl
@[simp] theorem State.silent_portNumbers (s : State) : s.silent.portNumbers = s.portNumbers := rfl
@[simp] theorem State.silent_cifsPerFrame (s : State) : s.silent.cifsPerFrame = s.cifsPerFrame := rfl
@[simp] theorem State.silent_frameLen (s : State) : s.silent.frameLen = s.frameLen := rfl
@[simp] theorem State.silent_sizeReg (s : State) (p : Nat) : s.silent.sizeReg p = s.sizeReg p := rfl
@[simp] theorem State.silent_capOf (s : State) (p : Nat) : s.silent.capOf p = s.capOf p := rfl
@[simp] theorem State.silent_slot (s : State) (p : Nat) : s.silent.slot p = s.slot p := rfl
@[simp] theorem State.silent_cifLen (s : State) (c : Nat) : s.silent.cifLen c = s.cifLen c := rfl
@[simp] theorem State.silent_need (s : State) (p c : Nat) : s.silent.need p c = s.need p c := rfl
@[simp] theorem State.silent_off (s : State) (p c : Nat) : s.silent.off p c = s.off p c := rfl
@[simp] theorem State.silent_cum (s : State) (p k : Nat) : s.silent.cum p k = s.cum p k := rfl

end silent

section respond

@[simp] theorem State.respond_numSub (s : State) (v : Response) : (s.respond v).numSub = s.numSub := rfl
@[simp] theorem State.respond_portNumbers (s : State) (v : Response) : (s.respond v).portNumbers = s.portNumbers := rfl
@[simp] theorem State.respond_cifsPerFrame (s : State) (v : Response) : (s.respond v).cifsPerFrame = s.cifsPerFrame := rfl
@[simp] theorem State.respond_frameLen (s : State) (v : Response) : (s.respond v).frameLen = s.frameLen := rfl
@[simp] theorem State.respond_sizeReg (s : State) (v : Response) (p : Nat) : (s.respond v).sizeReg p = s.sizeReg p := rfl
@[simp] theorem State.respond_capOf (s : State) (v : Response) (p : Nat) : (s.respond v).capOf p = s.capOf p := rfl
@[simp] theorem State.respond_slot (s : State) (v : Response) (p : Nat) : (s.respond v).slot p = s.slot p := rfl
@[simp] theorem State.respond_cifLen (s : State) (v : Response) (c : Nat) : (s.respond v).cifLen c = s.cifLen c := rfl
@[simp] theorem State.respond_need (s : State) (v : Response) (p c : Nat) : (s.respond v).need p c = s.need p c := rfl
@[simp] theorem State.respond_off (s : State) (v : Response) (p c : Nat) : (s.respond v).off p c = s.off p c := rfl
@[simp] theorem State.respond_cum (s : State) (v : Response) (p k : Nat) : (s.respond v).cum p k = s.cum p k := rfl

end respond

section setPort

@[simp] theorem State.setPort_numSub (s : State) (i : Nat) (q : Port) : (s.setPort i q).numSub = s.numSub := rfl
@[simp] theorem State.setPort_portNumbers (s : State) (i : Nat) (q : Port) : (s.setPort i q).portNumbers = s.portNumbers := rfl
@[simp] theorem State.setPort_cifsPerFrame (s : State) (i : Nat) (q : Port) : (s.setPort i q).cifsPerFrame = s.cifsPerFrame := rfl
@[simp] theorem State.setPort_frameLen (s : State) (i : Nat) (q : Port) : (s.setPort i q).frameLen = s.frameLen := rfl
@[simp] theorem State.setPort_sizeReg (s : State) (i : Nat) (q : Port) (p : Nat) : (s.setPort i q).sizeReg p = s.sizeReg p := rfl
@[simp] theorem State.setPort_capOf (s : State) (i : Nat) (q : Port) (p : Nat) : (s.setPort i q).capOf p = s.capOf p := rfl
@[simp] theorem State.setPort_slot (s : State) (i : Nat) (q : Port) (p : Nat) : (s.setPort i q).slot p = s.slot p := rfl
@[simp] theorem State.setPort_cifLen (s : State) (i : Nat) (q : Port) (c : Nat) : (s.setPort i q).cifLen c = s.cifLen c := rfl
@[simp] theorem State.setPort_need (s : State) (i : Nat) (q : Port) (p c : Nat) : (s.setPort i q).need p c = s.need p c := rfl
@[simp] theorem State.setPort_off (s : State) (i : Nat) (q : Port) (p c : Nat) : (s.setPort i q).off p c = s.off p c := rfl
@[simp] theorem State.setPort_cum (s : State) (i : Nat) (q : Port) (p k : Nat) : (s.setPort i q).cum p k = s.cum p k := rfl

end setPort

section mapPorts

@[simp] theorem State.mapPorts_numSub (s : State) (f : Nat → Port → Port) : (s.mapPorts f).numSub = s.numSub := rfl
@[simp] theorem State.mapPorts_portNumbers (s : State) (f : Nat → Port → Port) : (s.mapPorts f).portNumbers = s.portNumbers := rfl
@[simp] theorem State.mapPorts_cifsPerFrame (s : State) (f : Nat → Port → Port) : (s.mapPorts f).cifsPerFrame = s.cifsPerFrame := rfl
@[simp] theorem State.mapPorts_frameLen (s : State) (f : Nat → Port → Port) : (s.mapPorts f).frameLen = s.frameLen := rfl
@[simp] theorem State.mapPorts_sizeReg (s : State) (f : Nat → Port → Port) (p : Nat) : (s.mapPorts f).sizeReg p = s.sizeReg p := rfl
@[simp] theorem State.mapPorts_capOf (s : State) (f : Nat → Port → Port) (p : Nat) : (s.mapPorts f).capOf p = s.capOf p := rfl
@[simp] theorem State.mapPorts_slot (s : State) (f : Nat → Port → Port) (p : Nat) : (s.mapPorts f).slot p = s.slot p := rfl
@[simp] theorem State.mapPorts_cifLen (s : State) (f : Nat → Port → Port) (c : Nat) : (s.mapPorts f).cifLen c = s.cifLen c := rfl
@[simp] theorem State.mapPorts_need (s : State) (f : Nat → Port → Port) (p c : Nat) : (s.mapPorts f).need p c = s.need p c := rfl
@[simp] theorem State.mapPorts_off (s : State) (f : Nat → Port → Port) (p c : Nat) : (s.mapPorts f).off p c = s.off p c := rfl
@[simp] theorem State.mapPorts_cum (s : State) (f : Nat → Port → Port) (p k : Nat) : (s.mapPorts f).cum p k = s.cum p k := rfl

end mapPorts

section setPc

@[simp] theorem State.setPc_numSub (s : State) (f : BitVec 32) (k : BitVec 8) : (s.setPc f k).numSub = s.numSub := rfl
@[simp] theorem State.setPc_portNumbers (s : State) (f : BitVec 32) (k : BitVec 8) : (s.setPc f k).portNumbers = s.portNumbers := rfl
@[simp] theorem State.setPc_cifsPerFrame (s : State) (f : BitVec 32) (k : BitVec 8) : (s.setPc f k).cifsPerFrame = s.cifsPerFrame := rfl
@[simp] theorem State.setPc_frameLen (s : State) (f : BitVec 32) (k : BitVec 8) : (s.setPc f k).frameLen = s.frameLen := rfl
@[simp] theorem State.setPc_sizeReg (s : State) (f : BitVec 32) (k : BitVec 8) (p : Nat) : (s.setPc f k).sizeReg p = s.sizeReg p := rfl
@[simp] theorem State.setPc_capOf (s : State) (f : BitVec 32) (k : BitVec 8) (p : Nat) : (s.setPc f k).capOf p = s.capOf p := rfl
@[simp] theorem State.setPc_slot (s : State) (f : BitVec 32) (k : BitVec 8) (p : Nat) : (s.setPc f k).slot p = s.slot p := rfl
@[simp] theorem State.setPc_cifLen (s : State) (f : BitVec 32) (k : BitVec 8) (c : Nat) : (s.setPc f k).cifLen c = s.cifLen c := rfl
@[simp] theorem State.setPc_need (s : State) (f : BitVec 32) (k : BitVec 8) (p c : Nat) : (s.setPc f k).need p c = s.need p c := rfl
@[simp] theorem State.setPc_off (s : State) (f : BitVec 32) (k : BitVec 8) (p c : Nat) : (s.setPc f k).off p c = s.off p c := rfl
@[simp] theorem State.setPc_cum (s : State) (f : BitVec 32) (k : BitVec 8) (p n : Nat) : (s.setPc f k).cum p n = s.cum p n := rfl

end setPc

section raiseEndOfStream

@[simp] theorem State.raiseEndOfStream_numSub (s : State) : s.raiseEndOfStream.numSub = s.numSub := rfl
@[simp] theorem State.raiseEndOfStream_portNumbers (s : State) : s.raiseEndOfStream.portNumbers = s.portNumbers := rfl
@[simp] theorem State.raiseEndOfStream_cifsPerFrame (s : State) : s.raiseEndOfStream.cifsPerFrame = s.cifsPerFrame := rfl
@[simp] theorem State.raiseEndOfStream_frameLen (s : State) : s.raiseEndOfStream.frameLen = s.frameLen := rfl
@[simp] theorem State.raiseEndOfStream_sizeReg (s : State) (p : Nat) : s.raiseEndOfStream.sizeReg p = s.sizeReg p := rfl
@[simp] theorem State.raiseEndOfStream_capOf (s : State) (p : Nat) : s.raiseEndOfStream.capOf p = s.capOf p := rfl
@[simp] theorem State.raiseEndOfStream_slot (s : State) (p : Nat) : s.raiseEndOfStream.slot p = s.slot p := rfl
@[simp] theorem State.raiseEndOfStream_cifLen (s : State) (c : Nat) : s.raiseEndOfStream.cifLen c = s.cifLen c := rfl
@[simp] theorem State.raiseEndOfStream_need (s : State) (p c : Nat) : s.raiseEndOfStream.need p c = s.need p c := rfl
@[simp] theorem State.raiseEndOfStream_off (s : State) (p c : Nat) : s.raiseEndOfStream.off p c = s.off p c := rfl
@[simp] theorem State.raiseEndOfStream_cum (s : State) (p k : Nat) : s.raiseEndOfStream.cum p k = s.cum p k := rfl

end raiseEndOfStream

section pushByte

@[simp] theorem State.pushByte_numSub (s : State) (i : Nat) (b : Byte) : (s.pushByte i b).numSub = s.numSub := rfl
@[simp] theorem State.pushByte_portNumbers (s : State) (i : Nat) (b : Byte) : (s.pushByte i b).portNumbers = s.portNumbers := rfl
@[simp] theorem State.pushByte_cifsPerFrame (s : State) (i : Nat) (b : Byte) : (s.pushByte i b).cifsPerFrame = s.cifsPerFrame := rfl
@[simp] theorem State.pushByte_frameLen (s : State) (i : Nat) (b : Byte) : (s.pushByte i b).frameLen = s.frameLen := rfl
@[simp] theorem State.pushByte_sizeReg (s : State) (i : Nat) (b : Byte) (p : Nat) : (s.pushByte i b).sizeReg p = s.sizeReg p := rfl
@[simp] theorem State.pushByte_capOf (s : State) (i : Nat) (b : Byte) (p : Nat) : (s.pushByte i b).capOf p = s.capOf p := rfl
@[simp] theorem State.pushByte_slot (s : State) (i : Nat) (b : Byte) (p : Nat) : (s.pushByte i b).slot p = s.slot p := rfl
@[simp] theorem State.pushByte_cifLen (s : State) (i : Nat) (b : Byte) (c : Nat) : (s.pushByte i b).cifLen c = s.cifLen c := rfl
@[simp] theorem State.pushByte_need (s : State) (i : Nat) (b : Byte) (p c : Nat) : (s.pushByte i b).need p c = s.need p c := rfl
@[simp] theorem State.pushByte_off (s : State) (i : Nat) (b : Byte) (p c : Nat) : (s.pushByte i b).off p c = s.off p c := rfl
@[simp] theorem State.pushByte_cum (s : State) (i : Nat) (b : Byte) (p k : Nat) : (s.pushByte i b).cum p k = s.cum p k := rfl

end pushByte

section setEos

@[simp] theorem State.setEos_numSub (s : State) (i : Nat) : (s.setEos i).numSub = s.numSub := rfl
@[simp] theorem State.setEos_portNumbers (s : State) (i : Nat) : (s.setEos i).portNumbers = s.portNumbers := rfl
@[simp] theorem State.setEos_cifsPerFrame (s : State) (i : Nat) : (s.setEos i).cifsPerFrame = s.cifsPerFrame := rfl
@[simp] theorem State.setEos_frameLen (s : State) (i : Nat) : (s.setEos i).frameLen = s.frameLen := rfl
@[simp] theorem State.setEos_sizeReg (s : State) (i : Nat) (p : Nat) : (s.setEos i).sizeReg p = s.sizeReg p := rfl
@[simp] theorem State.setEos_capOf (s : State) (i : Nat) (p : Nat) : (s.setEos i).capOf p = s.capOf p := rfl
@[simp] theorem State.setEos_slot (s : State) (i : Nat) (p : Nat) : (s.setEos i).slot p = s.slot p := rfl
@[simp] theorem State.setEos_cifLen (s : State) (i : Nat) (c : Nat) : (s.setEos i).cifLen c = s.cifLen c := rfl
@[simp] theorem State.setEos_need (s : State) (i : Nat) (p c : Nat) : (s.setEos i).need p c = s.need p c := rfl
@[simp] theorem State.setEos_off (s : State) (i : Nat) (p c : Nat) : (s.setEos i).off p c = s.off p c := rfl
@[simp] theorem State.setEos_cum (s : State) (i : Nat) (p k : Nat) : (s.setEos i).cum p k = s.cum p k := rfl

end setEos

section emit

@[simp] theorem State.emit_numSub (s : State) : s.emit.numSub = s.numSub := rfl
@[simp] theorem State.emit_portNumbers (s : State) : s.emit.portNumbers = s.portNumbers := rfl
@[simp] theorem State.emit_cifsPerFrame (s : State) : s.emit.cifsPerFrame = s.cifsPerFrame := rfl
@[simp] theorem State.emit_frameLen (s : State) : s.emit.frameLen = s.frameLen := rfl
@[simp] theorem State.emit_sizeReg (s : State) (p : Nat) : s.emit.sizeReg p = s.sizeReg p := rfl
@[simp] theorem State.emit_capOf (s : State) (p : Nat) : s.emit.capOf p = s.capOf p := rfl
@[simp] theorem State.emit_slot (s : State) (p : Nat) : s.emit.slot p = s.slot p := rfl
@[simp] theorem State.emit_cifLen (s : State) (c : Nat) : s.emit.cifLen c = s.cifLen c := rfl
@[simp] theorem State.emit_need (s : State) (p c : Nat) : s.emit.need p c = s.need p c := rfl
@[simp] theorem State.emit_off (s : State) (p c : Nat) : s.emit.off p c = s.off p c := rfl
@[simp] theorem State.emit_cum (s : State) (p k : Nat) : s.emit.cum p k = s.cum p k := rfl

end emit

section ports

/-- A port above NSUB_MAX reads as a port after RESET. -/
theorem State.port_of_length_le (s : State) (p : Nat) (h : s.ports.length ≤ p) : s.port p = {} := by
  simp [State.port, List.getD_eq_getElem?_getD, h]

/-- The accessors of a port read the port list only. -/
theorem State.port_congr {s t : State} (h : t.ports = s.ports) (p : Nat) : t.port p = s.port p := by
  simp [State.port, h]

@[simp] theorem State.silent_port (s : State) (p : Nat) : s.silent.port p = s.port p := rfl
@[simp] theorem State.respond_port (s : State) (v : Response) (p : Nat) : (s.respond v).port p = s.port p := rfl
@[simp] theorem State.silent_fifo (s : State) (p : Nat) : s.silent.fifo p = s.fifo p := rfl
@[simp] theorem State.silent_eosf (s : State) (p : Nat) : s.silent.eosf p = s.eosf p := rfl
@[simp] theorem State.silent_resid (s : State) (p : Nat) : s.silent.resid p = s.resid p := rfl
@[simp] theorem State.silent_prem (s : State) (p : Nat) : s.silent.prem p = s.prem p := rfl
@[simp] theorem State.respond_fifo (s : State) (v : Response) (p : Nat) : (s.respond v).fifo p = s.fifo p := rfl
@[simp] theorem State.respond_eosf (s : State) (v : Response) (p : Nat) : (s.respond v).eosf p = s.eosf p := rfl
@[simp] theorem State.respond_resid (s : State) (v : Response) (p : Nat) : (s.respond v).resid p = s.resid p := rfl
@[simp] theorem State.respond_prem (s : State) (v : Response) (p : Nat) : (s.respond v).prem p = s.prem p := rfl

/-- Writing a port that exists, then reading it. -/
theorem State.setPort_port_same (s : State) (p : Nat) (q : Port) (h : p < s.ports.length) :
    (s.setPort p q).port p = q := by
  simp [State.port, List.getD_eq_getElem?_getD, h]

/-- Writing a port leaves every other port alone. -/
theorem State.setPort_port_ne (s : State) (p r : Nat) (q : Port) (h : r ≠ p) :
    (s.setPort p q).port r = s.port r := by
  simp [State.port, List.getD_eq_getElem?_getD, List.getElem?_set_ne (Ne.symm h)]

/-- Changing every port changes each by its own number. -/
theorem State.mapPorts_port (s : State) (f : Nat → Port → Port) (p : Nat) (h : p < s.ports.length) :
    (s.mapPorts f).port p = f p (s.port p) := by
  simp [State.port, List.getD_eq_getElem?_getD, h]

/-- Changing every port by a function that keeps a port after RESET, at any port number. -/
theorem State.mapPorts_port' (s : State) (f : Nat → Port → Port) (p : Nat) (h : f p {} = {}) :
    (s.mapPorts f).port p = f p (s.port p) := by
  by_cases hp : p < s.ports.length
  · exact s.mapPorts_port f p hp
  · have h1 : (s.mapPorts f).port p = {} := State.port_of_length_le _ _ (by simpa using hp)
    rw [h1, s.port_of_length_le p (by omega), h]

theorem State.pushByte_port_same (s : State) (p : Nat) (b : Byte) (h : p < s.ports.length) :
    (s.pushByte p b).port p = { s.port p with fifo := s.fifo p ++ [b] } :=
  s.setPort_port_same p _ h

theorem State.pushByte_port_ne (s : State) (p r : Nat) (b : Byte) (h : r ≠ p) :
    (s.pushByte p b).port r = s.port r :=
  s.setPort_port_ne p r _ h

theorem State.setEos_port_same (s : State) (p : Nat) (h : p < s.ports.length) :
    (s.setEos p).port p = { s.port p with eosf := true } :=
  s.setPort_port_same p _ h

theorem State.setEos_port_ne (s : State) (p r : Nat) (h : r ≠ p) : (s.setEos p).port r = s.port r :=
  s.setPort_port_ne p r _ h

/-- What EMIT does to a port (R135). -/
@[simp] theorem State.emit_port (s : State) (p : Nat) :
    s.emit.port p = s.drainPort s.cifctr.toNat p (s.port p) :=
  s.mapPorts_port' _ p (by simp [State.drainPort, memRead])

/-- What END does to a port that exists in the hardware (R137). -/
theorem State.raiseEndOfStream_port (s : State) (p : Nat) :
    s.raiseEndOfStream.port p = s.endPort p (s.port p) :=
  s.mapPorts_port' _ p (by simp [State.endPort])

/-- END leaves a port alone that is above N or has not signalled completion (R137). -/
theorem State.raiseEndOfStream_port_other (s : State) (p : Nat) (h : ¬(p ≤ s.numSub ∧ s.eosf p = true)) :
    s.raiseEndOfStream.port p = s.port p := by
  rw [s.raiseEndOfStream_port p]
  exact if_neg h

/-- FIFO[p] after EMIT (R135). -/
@[simp] theorem State.emit_fifo (s : State) (p : Nat) :
    s.emit.fifo p = if p ≤ s.numSub then (s.fifo p).drop (s.need p s.cifctr.toNat) else s.fifo p := by
  rw [State.fifo, State.emit_port, State.drainPort]
  split <;> rfl

/-- EMIT leaves EOSF[p] (R135). -/
@[simp] theorem State.emit_eosf (s : State) (p : Nat) : s.emit.eosf p = s.eosf p := by
  rw [State.eosf, State.emit_port, State.drainPort]
  split <;> rfl

/-- EMIT leaves RESID[p] (R135). -/
@[simp] theorem State.emit_resid (s : State) (p : Nat) : s.emit.resid p = s.resid p := by
  rw [State.resid, State.emit_port, State.drainPort]
  split <;> rfl

/-- EMIT leaves PREM[p] (R135). -/
@[simp] theorem State.emit_prem (s : State) (p : Nat) : s.emit.prem p = s.prem p := by
  rw [State.prem, State.emit_port, State.drainPort]
  split <;> rfl

/-- FIFO[p] after END (R137). -/
@[simp] theorem State.raiseEndOfStream_fifo (s : State) (p : Nat) :
    s.raiseEndOfStream.fifo p = if p ≤ s.numSub ∧ s.eosf p = true then [] else s.fifo p := by
  rw [State.fifo, State.raiseEndOfStream_port, State.endPort]
  unfold State.eosf
  split <;> rfl

/-- END leaves EOSF[p] (R137). -/
@[simp] theorem State.raiseEndOfStream_eosf (s : State) (p : Nat) : s.raiseEndOfStream.eosf p = s.eosf p := by
  rw [State.eosf, State.raiseEndOfStream_port, State.endPort]
  split <;> rfl

/-- RESID[p] after END (R137). -/
@[simp] theorem State.raiseEndOfStream_resid (s : State) (p : Nat) :
    s.raiseEndOfStream.resid p =
      if p ≤ s.numSub ∧ s.eosf p = true then saturate32 (s.fifo p).length else s.resid p := by
  rw [State.resid, State.raiseEndOfStream_port, State.endPort]
  unfold State.eosf
  split <;> rfl

/-- PREM[p] after END (R137). -/
@[simp] theorem State.raiseEndOfStream_prem (s : State) (p : Nat) :
    s.raiseEndOfStream.prem p =
      if p ≤ s.numSub ∧ s.eosf p = true then decide ((s.fifo p).length % s.slot p ≠ 0) else s.prem p := by
  rw [State.prem, State.raiseEndOfStream_port, State.endPort]
  unfold State.eosf
  split <;> rfl

/-- FIFO[r] after a byte has been pushed on a port that exists (R115). -/
theorem State.pushByte_fifo (s : State) (p r : Nat) (b : Byte) (h : p < s.ports.length) :
    (s.pushByte p b).fifo r = if r = p then s.fifo p ++ [b] else s.fifo r := by
  by_cases hr : r = p
  · subst hr; simp [State.fifo, s.pushByte_port_same r b h]
  · simp [State.fifo, s.pushByte_port_ne p r b hr, hr]

/-- What a write to one port keeps of that port, it keeps of every port. -/
theorem State.setPort_keeps {α : Type} (g : Port → α) (s : State) (p r : Nat) (q : Port)
    (h : g q = g (s.port p)) : g ((s.setPort p q).port r) = g (s.port r) := by
  by_cases hr : r = p
  · subst hr
    by_cases hl : r < s.ports.length
    · rw [s.setPort_port_same r q hl, h]
    · rw [State.port_of_length_le _ r (by simpa using hl), s.port_of_length_le r (Nat.not_lt.1 hl)]
  · rw [s.setPort_port_ne p r q hr]

/-- PUSH leaves every EOSF flag (R115). -/
@[simp] theorem State.pushByte_eosf (s : State) (p r : Nat) (b : Byte) : (s.pushByte p b).eosf r = s.eosf r :=
  s.setPort_keeps Port.eosf p r _ rfl

/-- PUSH leaves every RESID register (R115). -/
@[simp] theorem State.pushByte_resid (s : State) (p r : Nat) (b : Byte) :
    (s.pushByte p b).resid r = s.resid r :=
  s.setPort_keeps Port.resid p r _ rfl

/-- PUSH leaves every PREM flag (R115). -/
@[simp] theorem State.pushByte_prem (s : State) (p r : Nat) (b : Byte) : (s.pushByte p b).prem r = s.prem r :=
  s.setPort_keeps Port.prem p r _ rfl

/-- EOS leaves every FIFO (R116). -/
@[simp] theorem State.setEos_fifo (s : State) (p r : Nat) : (s.setEos p).fifo r = s.fifo r :=
  s.setPort_keeps Port.fifo p r _ rfl

/-- EOS leaves every RESID register (R116). -/
@[simp] theorem State.setEos_resid (s : State) (p r : Nat) : (s.setEos p).resid r = s.resid r :=
  s.setPort_keeps Port.resid p r _ rfl

/-- EOS leaves every PREM flag (R116). -/
@[simp] theorem State.setEos_prem (s : State) (p r : Nat) : (s.setEos p).prem r = s.prem r :=
  s.setPort_keeps Port.prem p r _ rfl

/-- EOSF[r] after EOS on a port that exists (R116). -/
theorem State.setEos_eosf (s : State) (p r : Nat) (h : p < s.ports.length) :
    (s.setEos p).eosf r = if r = p then true else s.eosf r := by
  by_cases hr : r = p
  · subst hr; simp [State.eosf, s.setEos_port_same r h]
  · simp [State.eosf, s.setEos_port_ne p r hr, hr]

/-- After RESET every port is as after RESET. -/
@[simp] theorem State.resetWith_port (P : Params) (p : Nat) : (State.resetWith P).port p = {} := by
  simp only [State.port, State.resetWith_ports, List.getD_eq_getElem?_getD, List.getElem?_replicate]
  split <;> rfl

@[simp] theorem State.resetAll_port (s : State) (p : Nat) : s.resetAll.port p = {} :=
  State.resetWith_port s.hw p

/-- After RESET every size register is 0. -/
@[simp] theorem State.resetWith_sizeReg (P : Params) (i : Nat) : (State.resetWith P).sizeReg i = 0 := by
  simp only [State.sizeReg, State.resetWith_sizes, List.getD_eq_getElem?_getD, List.getElem?_replicate]
  split <;> rfl

@[simp] theorem State.resetAll_sizeReg (s : State) (i : Nat) : s.resetAll.sizeReg i = 0 :=
  State.resetWith_sizeReg s.hw i

end ports

section predicates

/-- `c.holds n` bounds `n` by a bounded capacity only. -/
theorem Capacity_holds_iff (c : Capacity) (n : Nat) :
    c.holds n = true ↔ ∀ k, c = .bounded k → n ≤ k := by
  cases c with
  | bounded b => simp [Capacity.holds]
  | inf => simp [Capacity.holds]

/-- R128. -/
theorem State.starved_iff (s : State) (p : Nat) :
    s.starved p = true ↔ s.life = .run ∧ p ≤ s.numSub ∧ ¬s.Ready p := by
  simp [State.starved, and_assoc]

/-- Membership in the port numbers `0 .. N`. -/
@[simp] theorem State.mem_portNumbers (s : State) (p : Nat) : p ∈ s.portNumbers ↔ p ≤ s.numSub := by
  rw [State.portNumbers, List.mem_range]
  exact Nat.lt_succ_iff

/-- R128: in RUN, `avail_all` says every port is ready. -/
theorem State.availAll_iff (s : State) (h : s.life = .run) : s.availAll = true ↔ s.AllReady := by
  simp [State.availAll, List.all_eq_true, ← Bool.not_eq_true, State.starved_iff, h]

/-- R129. -/
theorem State.room_iff (s : State) : s.room = true ↔ s.HasRoom := Capacity_holds_iff _ _

/-- R130. -/
theorem State.endCond_iff (s : State) (h : s.life = .run) : s.endCond = true ↔ s.EndedShort := by
  simp [State.endCond, List.any_eq_true, State.starved_iff, h]
  constructor
  · rintro ⟨p, hp, ⟨-, hr⟩, he⟩
    exact ⟨p, hp, by omega, he⟩
  · rintro ⟨p, hp, hr, he⟩
    exact ⟨p, hp, ⟨hp, by omega⟩, he⟩

/-- R115: a FIFO has space for one byte iff it is not full. -/
theorem State.hasSpace_iff (s : State) (p : Nat) : s.hasSpace p = true ↔ s.NotFull p := by
  rw [State.hasSpace, Capacity_holds_iff]
  exact Iff.rfl

/-- EMIT is the outcome iff every port is ready and OUT has room (R131). -/
theorem State.asmOutcome_emit_iff (s : State) (h : s.life = .run) :
    s.asmOutcome = .emit ↔ s.AllReady ∧ s.HasRoom := by
  rw [← s.availAll_iff h, ← s.room_iff, State.asmOutcome]
  by_cases h1 : s.availAll = true <;> by_cases h2 : s.room = true <;> by_cases h3 : s.endCond = true <;>
    simp [h1, h2, h3]

/-- An ended port that is short is a port that is not ready. -/
theorem State.not_allReady_of_endedShort (s : State) (h : s.EndedShort) : ¬s.AllReady := by
  obtain ⟨p, hp, hr, -⟩ := h
  exact fun ha => hr (ha p hp)

/-- END is the outcome iff some ended port is short (R131): `end_cond` implies not `avail_all`. -/
theorem State.asmOutcome_end_iff (s : State) (h : s.life = .run) :
    s.asmOutcome = .endOfStream ↔ s.EndedShort := by
  have hx : s.endCond = true → s.availAll = true → False := fun he ha =>
    s.not_allReady_of_endedShort ((s.endCond_iff h).1 he) ((s.availAll_iff h).1 ha)
  rw [← s.endCond_iff h, State.asmOutcome]
  by_cases h1 : s.availAll = true <;> by_cases h2 : s.room = true <;> by_cases h3 : s.endCond = true <;>
    simp [h1, h2, h3]
  exact hx h3 h1

/-- STALL is the outcome in every other case (R131). -/
theorem State.asmOutcome_stall_iff (s : State) (h : s.life = .run) :
    s.asmOutcome = .stall ↔ ¬(s.AllReady ∧ s.HasRoom) ∧ ¬s.EndedShort := by
  rw [← s.asmOutcome_emit_iff h, ← s.asmOutcome_end_iff h]
  cases s.asmOutcome <;> simp

end predicates

end Sys2Proof.Machine
end

