-- ==== Sys2Proof/Laws/Exec.lean ====
section
/-! SUPPORT. What `exec` can do, said once: the ways an operation reaches a next state (`Effect`), when each operation has
a step, and what `step` adds around `exec`. -/
namespace Sys2Proof.Machine

/-- Every way operation `i` takes state `s` to a next state. -/
inductive Effect : Instr → State → State → Prop where
  | reset (s : State) : Effect .reset s s.resetAll
  | ignored (i : Instr) (s : State) (hi : isCfg i = true) (h : s.life ≠ .idle) : Effect i s s.silent
  | cfgMode (s : State) (m : BitVec 8) (h : s.life = .idle) : Effect (.cfgMode m) s { s with mode := m }.silent
  | cfgCount (s : State) (n : BitVec 16) (h : s.life = .idle) :
      Effect (.cfgCount n) s { s with count := n }.silent
  | cfgSize (s : State) (v : BitVec 16) (h : s.life = .idle) : Effect (.cfgSize v) s (s.appendSize v).silent
  | commit (s : State) (h : s.life = .idle) : Effect .cfgCommit s s.construct.silent
  | push (s : State) (p : BitVec 8) (b : Byte) (h : s.life = .run) (hp : p.toNat ≤ s.numSub)
      (he : s.eosf p.toNat = false) (hf : s.NotFull p.toNat) : Effect (.push p b) s (s.pushByte p.toNat b).silent
  | eos (s : State) (p : BitVec 8) (h : s.life = .run) (hp : p.toNat ≤ s.numSub) :
      Effect (.eos p) s (s.setEos p.toNat).silent
  | emit (s : State) (h : s.life = .run) (ha : s.AllReady) (hr : s.HasRoom) : Effect .asm s s.emit.silent
  | endOfStream (s : State) (h : s.life = .run) (he : s.EndedShort) : Effect .asm s s.raiseEndOfStream.silent
  | pop (s : State) (b : Byte) (rest : List Byte) (h : s.out = b :: rest) :
      Effect .pop s ({ s with out := rest }.respond (.byte b))
  | rdsr (i : Instr) (s : State) (v : Word) (hi : isRdsr i = true) : Effect i s (s.respond (.word v))

/-- CFG_MODE in IDLE (R101). -/
theorem execCfgMode_idle (m : BitVec 8) (s : State) (h : s.life = .idle) :
    execCfgMode m s = .next { s with mode := m }.silent := by simp [execCfgMode, h]

/-- CFG_MODE outside IDLE (R100). -/
theorem execCfgMode_ignored (m : BitVec 8) (s : State) (h : s.life ≠ .idle) :
    execCfgMode m s = .next s.silent := by simp [execCfgMode, h]

/-- CFG_COUNT in IDLE (R102). -/
theorem execCfgCount_idle (n : BitVec 16) (s : State) (h : s.life = .idle) :
    execCfgCount n s = .next { s with count := n }.silent := by simp [execCfgCount, h]

/-- CFG_COUNT outside IDLE (R100). -/
theorem execCfgCount_ignored (n : BitVec 16) (s : State) (h : s.life ≠ .idle) :
    execCfgCount n s = .next s.silent := by simp [execCfgCount, h]

/-- CFG_SIZE in IDLE (R103). -/
theorem execCfgSize_idle (v : BitVec 16) (s : State) (h : s.life = .idle) :
    execCfgSize v s = .next (s.appendSize v).silent := by simp [execCfgSize, h]

/-- CFG_SIZE outside IDLE (R100). -/
theorem execCfgSize_ignored (v : BitVec 16) (s : State) (h : s.life ≠ .idle) :
    execCfgSize v s = .next s.silent := by simp [execCfgSize, h]

/-- CFG_COMMIT in IDLE (R104). -/
theorem execCfgCommit_idle (s : State) (h : s.life = .idle) :
    execCfgCommit s = .next s.construct.silent := by simp [execCfgCommit, h]

/-- CFG_COMMIT outside IDLE (R100). -/
theorem execCfgCommit_ignored (s : State) (h : s.life ≠ .idle) :
    execCfgCommit s = .next s.silent := by simp [execCfgCommit, h]

/-- PUSH when it is enabled (R115). -/
theorem execPush_enabled (p : BitVec 8) (b : Byte) (s : State) (h : s.life = .run) (hp : p.toNat ≤ s.numSub)
    (he : s.eosf p.toNat = false) (hf : s.NotFull p.toNat) :
    execPush p b s = .next (s.pushByte p.toNat b).silent := by
  simp [execPush, h, Nat.not_lt.2 hp, he, (s.hasSpace_iff p.toNat).2 hf]

/-- PUSH has a step only when it is enabled (R115). -/
theorem execPush_next {p : BitVec 8} {b : Byte} {s t : State} (h : execPush p b s = .next t) :
    s.life = .run ∧ p.toNat ≤ s.numSub ∧ s.eosf p.toNat = false ∧ s.NotFull p.toNat ∧
      t = (s.pushByte p.toNat b).silent := by
  unfold execPush at h
  split at h
  · cases h
  · split at h
    · cases h
    · split at h
      · cases h
      · split at h
        · rename_i h1 h2 h3 h4
          exact ⟨by simpa using h1, by omega, by simpa using h3, (s.hasSpace_iff _).1 h4,
            (Host.Outcome.next.inj h).symm⟩
        · cases h

/-- EOS when it is enabled (R116). -/
theorem execEos_enabled (p : BitVec 8) (s : State) (h : s.life = .run) (hp : p.toNat ≤ s.numSub) :
    execEos p s = .next (s.setEos p.toNat).silent := by
  simp [execEos, h, Nat.not_lt.2 hp]

/-- EOS has a step only when it is enabled (R116). -/
theorem execEos_next {p : BitVec 8} {s t : State} (h : execEos p s = .next t) :
    s.life = .run ∧ p.toNat ≤ s.numSub ∧ t = (s.setEos p.toNat).silent := by
  unfold execEos at h
  split at h
  · cases h
  · split at h
    · cases h
    · rename_i h1 h2
      exact ⟨by simpa using h1, by omega, (Host.Outcome.next.inj h).symm⟩

/-- ASM with outcome EMIT (R132, R135). -/
theorem execAsm_emit (s : State) (h : s.life = .run) (ha : s.AllReady) (hr : s.HasRoom) :
    execAsm s = .next s.emit.silent := by
  simp [execAsm, h, (s.asmOutcome_emit_iff h).2 ⟨ha, hr⟩]

/-- ASM with outcome END (R132, R137). -/
theorem execAsm_end (s : State) (h : s.life = .run) (he : s.EndedShort) :
    execAsm s = .next s.raiseEndOfStream.silent := by
  simp [execAsm, h, (s.asmOutcome_end_iff h).2 he]

/-- ASM has a step only with outcome EMIT or END (R132). -/
theorem execAsm_next {s t : State} (h : execAsm s = .next t) :
    s.life = .run ∧ ((s.AllReady ∧ s.HasRoom ∧ t = s.emit.silent) ∨
      (s.EndedShort ∧ t = s.raiseEndOfStream.silent)) := by
  unfold execAsm at h
  split at h
  · cases h
  · rename_i h1
    have hl : s.life = .run := by simpa using h1
    refine ⟨hl, ?_⟩
    split at h
    · rename_i h2
      have h3 := (s.asmOutcome_emit_iff hl).1 h2
      exact .inl ⟨h3.1, h3.2, (Host.Outcome.next.inj h).symm⟩
    · rename_i h2
      exact .inr ⟨(s.asmOutcome_end_iff hl).1 h2, (Host.Outcome.next.inj h).symm⟩
    · cases h

/-- POP takes the head of OUT (R155). -/
theorem execPop_cons (s : State) (b : Byte) (rest : List Byte) (h : s.out = b :: rest) :
    execPop s = .next ({ s with out := rest }.respond (.byte b)) := by
  simp [execPop, h, memRead]

/-- POP with OUT empty is held (R155). -/
theorem execPop_nil (s : State) (h : s.out = []) : execPop s = .fault .heldEmpty := by
  simp [execPop, h]

/-- A next state of `exec` comes about in one of the ways of `Effect`. -/
theorem exec_effect {i : Instr} {s t : State} (h : exec i s = .next t) : Effect i s t := by
  have cfg : ∀ {a b : State}, (Host.Outcome.next (if s.life = .idle then a else b) :
      Host.Outcome State Fault Refusal) = .next t → (s.life = .idle ∧ t = a) ∨ (s.life ≠ .idle ∧ t = b) := by
    intro a b hh
    by_cases hl : s.life = .idle
    · rw [if_pos hl] at hh; exact .inl ⟨hl, (Host.Outcome.next.inj hh).symm⟩
    · rw [if_neg hl] at hh; exact .inr ⟨hl, (Host.Outcome.next.inj hh).symm⟩
  cases i with
  | reset => cases h; exact .reset s
  | cfgMode m =>
    rcases cfg h with ⟨hl, rfl⟩ | ⟨hl, rfl⟩
    · exact .cfgMode s m hl
    · exact .ignored _ s rfl hl
  | cfgCount n =>
    rcases cfg h with ⟨hl, rfl⟩ | ⟨hl, rfl⟩
    · exact .cfgCount s n hl
    · exact .ignored _ s rfl hl
  | cfgSize v =>
    rcases cfg h with ⟨hl, rfl⟩ | ⟨hl, rfl⟩
    · exact .cfgSize s v hl
    · exact .ignored _ s rfl hl
  | cfgCommit =>
    rcases cfg h with ⟨hl, rfl⟩ | ⟨hl, rfl⟩
    · exact .commit s hl
    · exact .ignored _ s rfl hl
  | push p b =>
    obtain ⟨hl, hp, he, hf, rfl⟩ := execPush_next h
    exact .push s p b hl hp he hf
  | eos p =>
    obtain ⟨hl, hp, rfl⟩ := execEos_next h
    exact .eos s p hl hp
  | asm =>
    obtain ⟨hl, ⟨ha, hr, rfl⟩ | ⟨he, rfl⟩⟩ := execAsm_next h
    · exact .emit s hl ha hr
    · exact .endOfStream s hl he
  | pop =>
    change execPop s = _ at h
    cases ho : s.out with
    | nil => rw [execPop_nil s ho] at h; cases h
    | cons b rest => rw [execPop_cons s b rest ho] at h; cases h; exact .pop s b rest ho
  | rdsrState => cases h; exact .rdsr _ s _ rfl
  | rdsrErr => cases h; exact .rdsr _ s _ rfl
  | rdsrMode => cases h; exact .rdsr _ s _ rfl
  | rdsrCount => cases h; exact .rdsr _ s _ rfl
  | rdsrListlen => cases h; exact .rdsr _ s _ rfl
  | rdsrCifctr => cases h; exact .rdsr _ s _ rfl
  | rdsrFrmctr => cases h; exact .rdsr _ s _ rfl
  | rdsrOutlvl => cases h; exact .rdsr _ s _ rfl
  | rdsrStatus => cases h; exact .rdsr _ s _ rfl
  | rdsrCiflen => cases h; exact .rdsr _ s _ rfl
  | rdsrFramelen => cases h; exact .rdsr _ s _ rfl
  | rdsrLvl p => cases h; exact .rdsr _ s _ rfl
  | rdsrSlot p => cases h; exact .rdsr _ s _ rfl
  | rdsrPflags p => cases h; exact .rdsr _ s _ rfl
  | rdsrResid p => cases h; exact .rdsr _ s _ rfl
  | rdsrSize p => cases h; exact .rdsr _ s _ rfl

/-- A step that has a next state performs the decoded head of the trace. -/
theorem step_next {s t : State} (h : step s = .next t) :
    ∃ w rest i, s.trace = w :: rest ∧ decode w = some i ∧ exec i { s with trace := rest } = .next t := by
  unfold step State.fetch at h
  cases ht : s.trace with
  | nil => simp [ht] at h
  | cons w rest =>
    cases hd : decode w with
    | none => simp [ht, hd] at h
    | some i => exact ⟨w, rest, i, rfl, hd, by simpa [ht, hd] using h⟩

end Sys2Proof.Machine
end

