-- ==== Sys2Proof/Laws/History.lean ====
section
/-! SUPPORT. Small lemmas on `cum`, on the CIFs of a history, and on a state in which nothing has streamed. -/
namespace Sys2Proof.Machine

theorem State.cum_zero (s : State) (p : Nat) : s.cum p 0 = 0 := rfl

/-- One CIF more takes what it needs. -/
theorem State.cum_succ (s : State) (p k : Nat) :
    s.cum p (k + 1) = s.cum p k + s.need p (k % s.cifsPerFrame) := by
  simp [State.cum, List.range_succ]

theorem State.cum_mono (s : State) (p : Nat) {j k : Nat} (h : j ≤ k) : s.cum p j ≤ s.cum p k := by
  induction h with
  | refl => exact Nat.le_refl _
  | step _ ih => rw [State.cum_succ]; omega

theorem State.cifStart_zero (s : State) : s.cifStart 0 = 0 := rfl

/-- The next CIF starts where this one ends. -/
theorem State.cifStart_succ (s : State) (j : Nat) :
    s.cifStart (j + 1) = s.cifStart j + s.cifLen (j % s.cifsPerFrame) := by
  simp [State.cifStart, List.range_succ]

theorem History.cifs_succ (h : History) (s : State) (k : Nat) : h.cifs s (k + 1) = h.cifs s k ++ h.cif s k := by
  simp [History.cifs, List.range_succ]

/-- The first `k` CIFs depend on their slices only. -/
theorem History.cifs_congr {g h : History} {s t : State} (k : Nat) (hn : t.numSub = s.numSub)
    (he : ∀ p j, p ≤ s.numSub → j < k → h.sliceOf t p j = g.sliceOf s p j) : h.cifs t k = g.cifs s k := by
  have hp : t.portNumbers = s.portNumbers := by simp [State.portNumbers, hn]
  unfold History.cifs History.cif
  rw [hp, List.flatMap_def, List.flatMap_def]
  refine congrArg List.flatten (List.map_congr_left fun j hj => ?_)
  rw [List.flatMap_def, List.flatMap_def]
  exact congrArg List.flatten
    (List.map_congr_left fun p hq => he p j ((s.mem_portNumbers p).1 hq) (List.mem_range.1 hj))

/-- Where nothing has streamed every port reads as after RESET. -/
theorem State.port_of_unstreamed {s : State} (h : s.Unstreamed) (p : Nat) : s.port p = {} := by
  unfold State.port
  rw [List.getD_eq_getElem?_getD]
  cases hg : s.ports[p]? with
  | none => rfl
  | some q => simpa using h.1 q (List.mem_of_getElem? hg)

end Sys2Proof.Machine
end

