-- ==== Sys2Proof/Laws/Params.lean ====
section
/-! SUPPORT. Small lemmas on the parameters: capacities, rows of MODE_TABLE, and what a passed validation says. -/
namespace Sys2Proof

/-- The parameters of every hardware the model speaks of are admissible (R11). -/
theorem Params_admitted_admissible (P : Params) : P.admitted.Admissible := by
  unfold Params.admitted
  split
  · assumption
  · decide

namespace Machine

/-- A FIFO that can hold `n` bytes can hold fewer. -/
theorem Capacity_holds_mono {c : Capacity} {m n : Nat} (h : m ≤ n) (hc : c.holds n = true) : c.holds m = true := by
  rw [Capacity_holds_iff] at *
  exact fun k hk => Nat.le_trans h (hc k hk)

/-- Every FIFO can be empty. -/
theorem Capacity_holds_zero (c : Capacity) : c.holds 0 = true := by cases c <;> simp [Capacity.holds]

/-- A mode of MODES has a row (R8). -/
theorem Params_row_of_isMode {P : Params} {m : BitVec 8} (h : P.isMode m = true) :
    ∃ r ∈ P.modes, P.row m = some r := by
  obtain ⟨r, hr⟩ := Option.isSome_iff_exists.1 h
  exact ⟨r, List.mem_of_find?_eq_some hr, hr⟩

/-- The row found for the identifier of a row of the table is that row, if identifiers are distinct (R8). -/
theorem Params_row_of_mem {P : Params} (h : P.IdsDistinct) {r : ModeRow} (hr : r ∈ P.modes) : P.row r.id = some r := by
  unfold Params.row
  have key : ∀ l : List ModeRow, (l.map ModeRow.id).Nodup → r ∈ l → l.find? (fun q => q.id == r.id) = some r := by
    intro l
    induction l with
    | nil => simp
    | cons q l ih =>
      intro hd hm
      simp only [List.map_cons, List.nodup_cons, List.mem_map, not_exists, not_and] at hd
      rcases List.mem_cons.1 hm with rfl | hm
      · simp
      · rw [List.find?_cons_of_neg (by simpa using fun e => hd.1 r hm e.symm)]
        exact ih hd.2 hm
  exact key _ h hr

/-- Only the CIF indices of a frame are scheduled (R8). -/
theorem Params_sched_lt (P : Params) (m : BitVec 8) (c : Nat) (h : P.sched m c = true) : c < P.cifs m := by
  unfold Params.sched at h
  unfold Params.cifs
  cases hr : P.row m with
  | none => simp [hr] at h
  | some r =>
    simp only [hr, Option.map_some, Option.getD_some, List.getD_eq_getElem?_getD] at h ⊢
    refine Nat.lt_of_not_le fun hc => ?_
    simp [List.getElem?_eq_none hc] at h

/-- A configuration no check rejects is valid (R104, R110). -/
theorem State.validConfig_of_configFailure_none {s : State} (h : s.configFailure = none) : s.ValidConfig := by
  unfold State.configFailure at h
  split at h
  · cases h
  · split at h
    · cases h
    · split at h
      · cases h
      · split at h
        · cases h
        · split at h
          · cases h
          · rename_i h1 h2 h3 h4 h5
            refine ⟨by simpa using h1, by simpa using h2, by omega, fun i hi => ?_, by omega⟩
            simp only [State.someSizeNonpositive, List.any_eq_true, List.mem_range, decide_eq_true_eq, not_exists,
              not_and] at h4
            have := h4 i hi
            omega

end Machine
end Sys2Proof
end

