-- ==== Sys2Proof/Laws/PerInstr.lean ====
section
/-! SUPPORT. Per instruction: the word of the instruction has the pattern of its row of the opcode map (R80). -/
namespace Sys2Proof.Laws

/-- The word of `i` matches the row of the opcode map that carries its mnemonic (R80). -/
def EncodesItsRow.Statement (i : Instr) : Prop :=
  ∃ r ∈ opcodeMap, r.mnemonic = i.mnemonic ∧ r.encodes (encode i) = true

/-- A row of the opcode map shows the statement for an instruction with its mnemonic. -/
theorem encodesItsRow_of_row {i : Instr} (r : OpcodeRow) (hm : r ∈ opcodeMap) (hn : r.mnemonic = i.mnemonic)
    (he : encode i &&& r.mask = r.pattern) : EncodesItsRow.Statement i :=
  ⟨r, hm, hn, by simp [OpcodeRow.encodes, he]⟩

theorem EncodesItsRow.reset : EncodesItsRow.Statement .reset :=
  encodesItsRow_of_row ⟨"RESET", 0x10000000, 0xFFFFFFFF⟩ (by decide) rfl (by decide)

theorem EncodesItsRow.cfgMode (m : BitVec 8) : EncodesItsRow.Statement (.cfgMode m) :=
  encodesItsRow_of_row ⟨"CFG_MODE", 0x20000000, 0xFFFFFF00⟩ (by decide) rfl (by
    simp only [encode, mkWord_and, opdByte_and]
    simp [fieldOp, fieldPort, fieldOpd]
    decide)

theorem EncodesItsRow.cfgCount (n : BitVec 16) : EncodesItsRow.Statement (.cfgCount n) :=
  encodesItsRow_of_row ⟨"CFG_COUNT", 0x30000000, 0xFFFF0000⟩ (by decide) rfl (by
    simp only [encode, mkWord_and]
    simp [fieldOp, fieldPort, fieldOpd]
    decide)

theorem EncodesItsRow.cfgSize (v : BitVec 16) : EncodesItsRow.Statement (.cfgSize v) :=
  encodesItsRow_of_row ⟨"CFG_SIZE", 0x40000000, 0xFFFF0000⟩ (by decide) rfl (by
    simp only [encode, mkWord_and]
    simp [fieldOp, fieldPort, fieldOpd]
    decide)

theorem EncodesItsRow.cfgCommit : EncodesItsRow.Statement .cfgCommit :=
  encodesItsRow_of_row ⟨"CFG_COMMIT", 0x50000000, 0xFFFFFFFF⟩ (by decide) rfl (by decide)

theorem EncodesItsRow.push (p : BitVec 8) (b : Byte) : EncodesItsRow.Statement (.push p b) :=
  encodesItsRow_of_row ⟨"PUSH", 0x60000000, 0xF00FFF00⟩ (by decide) rfl (by
    simp only [encode, mkWord_and, opdByte_and]
    simp [fieldOp, fieldPort, fieldOpd]
    decide)

theorem EncodesItsRow.eos (p : BitVec 8) : EncodesItsRow.Statement (.eos p) :=
  encodesItsRow_of_row ⟨"EOS", 0x70000000, 0xF00FFFFF⟩ (by decide) rfl (by
    simp only [encode, mkWord_and]
    simp [fieldOp, fieldPort, fieldOpd]
    decide)

theorem EncodesItsRow.asm : EncodesItsRow.Statement .asm :=
  encodesItsRow_of_row ⟨"ASM", 0x80000000, 0xFFFFFFFF⟩ (by decide) rfl (by decide)

theorem EncodesItsRow.pop : EncodesItsRow.Statement .pop :=
  encodesItsRow_of_row ⟨"POP", 0x90000000, 0xFFFFFFFF⟩ (by decide) rfl (by decide)

theorem EncodesItsRow.rdsrState : EncodesItsRow.Statement .rdsrState :=
  encodesItsRow_of_row ⟨"RDSR_STATE", 0xA0000000, 0xFFFFFFFF⟩ (by decide) rfl (by decide)

theorem EncodesItsRow.rdsrErr : EncodesItsRow.Statement .rdsrErr :=
  encodesItsRow_of_row ⟨"RDSR_ERR", 0xA0000001, 0xFFFFFFFF⟩ (by decide) rfl (by decide)

theorem EncodesItsRow.rdsrMode : EncodesItsRow.Statement .rdsrMode :=
  encodesItsRow_of_row ⟨"RDSR_MODE", 0xA0000002, 0xFFFFFFFF⟩ (by decide) rfl (by decide)

theorem EncodesItsRow.rdsrCount : EncodesItsRow.Statement .rdsrCount :=
  encodesItsRow_of_row ⟨"RDSR_COUNT", 0xA0000003, 0xFFFFFFFF⟩ (by decide) rfl (by decide)

theorem EncodesItsRow.rdsrListlen : EncodesItsRow.Statement .rdsrListlen :=
  encodesItsRow_of_row ⟨"RDSR_LISTLEN", 0xA0000004, 0xFFFFFFFF⟩ (by decide) rfl (by decide)

theorem EncodesItsRow.rdsrCifctr : EncodesItsRow.Statement .rdsrCifctr :=
  encodesItsRow_of_row ⟨"RDSR_CIFCTR", 0xA0000005, 0xFFFFFFFF⟩ (by decide) rfl (by decide)

theorem EncodesItsRow.rdsrFrmctr : EncodesItsRow.Statement .rdsrFrmctr :=
  encodesItsRow_of_row ⟨"RDSR_FRMCTR", 0xA0000006, 0xFFFFFFFF⟩ (by decide) rfl (by decide)

theorem EncodesItsRow.rdsrOutlvl : EncodesItsRow.Statement .rdsrOutlvl :=
  encodesItsRow_of_row ⟨"RDSR_OUTLVL", 0xA0000007, 0xFFFFFFFF⟩ (by decide) rfl (by decide)

theorem EncodesItsRow.rdsrStatus : EncodesItsRow.Statement .rdsrStatus :=
  encodesItsRow_of_row ⟨"RDSR_STATUS", 0xA0000008, 0xFFFFFFFF⟩ (by decide) rfl (by decide)

theorem EncodesItsRow.rdsrCiflen : EncodesItsRow.Statement .rdsrCiflen :=
  encodesItsRow_of_row ⟨"RDSR_CIFLEN", 0xA0000009, 0xFFFFFFFF⟩ (by decide) rfl (by decide)

theorem EncodesItsRow.rdsrFramelen : EncodesItsRow.Statement .rdsrFramelen :=
  encodesItsRow_of_row ⟨"RDSR_FRAMELEN", 0xA000000A, 0xFFFFFFFF⟩ (by decide) rfl (by decide)

theorem EncodesItsRow.rdsrLvl (p : BitVec 8) : EncodesItsRow.Statement (.rdsrLvl p) :=
  encodesItsRow_of_row ⟨"RDSR_LVL", 0xA0000010, 0xF00FFFFF⟩ (by decide) rfl (by
    simp only [encode, mkWord_and, opdByte_and]
    simp [fieldOp, fieldPort, fieldOpd]
    decide)

theorem EncodesItsRow.rdsrSlot (p : BitVec 8) : EncodesItsRow.Statement (.rdsrSlot p) :=
  encodesItsRow_of_row ⟨"RDSR_SLOT", 0xA0000011, 0xF00FFFFF⟩ (by decide) rfl (by
    simp only [encode, mkWord_and, opdByte_and]
    simp [fieldOp, fieldPort, fieldOpd]
    decide)

theorem EncodesItsRow.rdsrPflags (p : BitVec 8) : EncodesItsRow.Statement (.rdsrPflags p) :=
  encodesItsRow_of_row ⟨"RDSR_PFLAGS", 0xA0000012, 0xF00FFFFF⟩ (by decide) rfl (by
    simp only [encode, mkWord_and, opdByte_and]
    simp [fieldOp, fieldPort, fieldOpd]
    decide)

theorem EncodesItsRow.rdsrResid (p : BitVec 8) : EncodesItsRow.Statement (.rdsrResid p) :=
  encodesItsRow_of_row ⟨"RDSR_RESID", 0xA0000013, 0xF00FFFFF⟩ (by decide) rfl (by
    simp only [encode, mkWord_and, opdByte_and]
    simp [fieldOp, fieldPort, fieldOpd]
    decide)

theorem EncodesItsRow.rdsrSize (p : BitVec 8) : EncodesItsRow.Statement (.rdsrSize p) :=
  encodesItsRow_of_row ⟨"RDSR_SIZE", 0xA0000014, 0xF00FFFFF⟩ (by decide) rfl (by
    simp only [encode, mkWord_and, opdByte_and]
    simp [fieldOp, fieldPort, fieldOpd]
    decide)

end Sys2Proof.Laws
end

