-- ==== Sys2Proof/Laws/Run.lean ====
section
/-! SUPPORT. Inductions packaged once: over the steps of a run, over a list of operations, over the reachable states. -/
namespace Sys2Proof.Machine

/-- What every step of a machine keeps, every run of it keeps. -/
theorem run_keeps (M : Host.Core) (I : M.State → Prop)
    (hstep : ∀ s t, I s → M.step s = .next t → I t) :
    ∀ (k : Nat) (s t : M.State), I s → M.run k s = .next t → I t := by
  intro k
  induction k with
  | zero => intro s t hs h; cases h; exact hs
  | succ k ih =>
    intro s t hs h
    rw [Host.Core.run] at h
    split at h
    · rename_i s' hst
      exact ih s' t (hstep s s' hs hst) h
    · cases h
    · cases h

/-- Performing a list of operations, then another. -/
theorem execAll_append (l l' : List Instr) (s : State) :
    execAll (l ++ l') s =
      match execAll l s with
      | .next t => execAll l' t
      | .fault r => .fault r
      | .refused r => .refused r := by
  induction l generalizing s with
  | nil => rfl
  | cons i rest ih =>
    simp only [List.cons_append, execAll]
    cases exec i s with
    | next t => exact ih t
    | fault r => rfl
    | refused r => rfl

/-- What every operation keeps, every list of operations keeps. -/
theorem execAll_keeps (I : State → Prop) (hop : ∀ i s t, I s → Effect i s t → I t) :
    ∀ (l : List Instr) (s t : State), I s → execAll l s = .next t → I t := by
  intro l
  induction l with
  | nil => intro s t hs h; cases h; exact hs
  | cons i rest ih =>
    intro s t hs h
    rw [execAll] at h
    split at h
    · rename_i s' hst
      exact ih s' t (hop i s s' hs (exec_effect hst)) h
    · cases h
    · cases h

/-- What holds of a hardware just reset and is kept by every operation holds of every reachable state and its
history. -/
theorem reachable_keeps (P : Params) (I : State → History → Prop)
    (h0 : I (State.resetWith P) History.empty)
    (hop : ∀ i s t h, I s h → exec i s = .next t → I t (h.after i s t)) :
    ∀ s h, Reachable P s h → I s h := by
  intro s h hr
  induction hr with
  | reset => exact h0
  | op i _ hx ih => exact hop i _ _ _ ih hx

end Sys2Proof.Machine
end

