-- ==== Sys2Proof/Laws/Shape.lean ====
section
/-! SUPPORT. The canonical form of the register files: every operation keeps exactly NSUB_MAX + 1 ports and exactly
NSUB_MAX size registers (R20), and no operation changes the hardware's parameters. -/
namespace Sys2Proof.Machine

theorem State.resetWith_shape (P : Params) : (State.resetWith P).Shape := by simp [State.Shape]

theorem State.reset_shape : State.reset.Shape := State.resetWith_shape _

/-- Every operation keeps the shape of the register files and the parameters. -/
theorem Effect_shape {i : Instr} {s t : State} (h : Effect i s t) (hs : s.Shape) :
    t.Shape ∧ t.hw = s.hw := by
  obtain ⟨h1, h2⟩ := hs
  cases h with
  | cfgSize _ v hl =>
    refine ⟨⟨by simpa using h1, ?_⟩, by simp⟩
    simp only [State.silent_sizes, State.appendSize_sizes, State.silent_hw, State.appendSize_hw]
    split <;> simp [h2]
  | _ => simp [State.Shape, h1, h2]

/-- Every operation leaves the words still to be performed alone. -/
theorem Effect_trace {i : Instr} {s t : State} (h : Effect i s t) : t.trace = s.trace := by
  cases h <;> simp

end Sys2Proof.Machine
end

