-- ==== Sys2Proof/Laws/Status.lean ====
section
/-! SUPPORT. The bits of STATUS and PFLAGS, and what the derived status predicates say (R35, R36, R38). -/
namespace Sys2Proof.Machine

/-- A flag appended below a word is its bit 0; the word moves up by one. -/
theorem append_ofBool_getLsbD {n : Nat} (x : BitVec n) (b : Bool) (k : Nat) :
    (x ++ BitVec.ofBool b).getLsbD k = if k = 0 then b else x.getLsbD (k - 1) := by
  rw [BitVec.getLsbD_append]
  by_cases h : k = 0
  · subst h; simp
  · simp [h, show ¬k < 1 by omega]

/-- The bits of STATUS (R36). -/
theorem State.statusWord_getLsbD (s : State) (k : Nat) : s.statusWord.getLsbD k =
    if k = 0 then s.configured else if k = 1 then s.cfgError else if k = 2 then s.hasEnded
    else if k = 3 then s.outEos else if k = 4 then s.stalled else if k = 5 then s.outBlocked
    else if k = 6 then s.prematureAny else if k = 7 then s.outValid else false := by
  change BitVec.getLsbD (w := 24 + 1 + 1 + 1 + 1 + 1 + 1 + 1 + 1) ((0#24) ++ BitVec.ofBool s.outValid ++
    BitVec.ofBool s.prematureAny ++ BitVec.ofBool s.outBlocked ++ BitVec.ofBool s.stalled ++
    BitVec.ofBool s.outEos ++ BitVec.ofBool s.hasEnded ++ BitVec.ofBool s.cfgError ++
    BitVec.ofBool s.configured) k = _
  simp only [append_ofBool_getLsbD]
  match k with
  | 0 => rfl
  | 1 => rfl
  | 2 => rfl
  | 3 => rfl
  | 4 => rfl
  | 5 => rfl
  | 6 => rfl
  | 7 => rfl
  | n + 8 => simp

/-- The bits of PFLAGS for a port the hardware has (R38). -/
theorem State.pflagsWord_getLsbD (s : State) (p k : Nat) (h : p ≤ s.hw.nsubMax) : (s.pflagsWord p).getLsbD k =
    if k = 0 then s.portExists p else if k = 1 then s.eosf p else if k = 2 then s.starved p
    else if k = 3 then s.prem p else false := by
  rw [State.pflagsWord, if_pos h]
  change BitVec.getLsbD (w := 28 + 1 + 1 + 1 + 1) ((0#28) ++ BitVec.ofBool (s.prem p) ++
    BitVec.ofBool (s.starved p) ++ BitVec.ofBool (s.eosf p) ++ BitVec.ofBool (s.portExists p)) k = _
  simp only [append_ofBool_getLsbD]
  match k with
  | 0 => rfl
  | 1 => rfl
  | 2 => rfl
  | 3 => rfl
  | n + 4 => simp

/-- CONFIGURED (R35). -/
theorem State.configured_iff (s : State) : s.configured = true ↔ s.Configured := by simp [State.configured]

/-- EXISTS(p) (R26, R35). -/
theorem State.portExists_iff (s : State) (p : Nat) :
    s.portExists p = true ↔ s.Configured ∧ p ≤ s.numSub := by simp [State.portExists]

/-- STALL (R35). -/
theorem State.stalled_iff (s : State) :
    s.stalled = true ↔ s.life = .run ∧ ¬s.AllReady ∧ ¬s.EndedShort := by
  by_cases hl : s.life = .run
  · rw [← s.availAll_iff hl, ← s.endCond_iff hl]; simp [State.stalled, hl]
  · simp [State.stalled, hl]

/-- OUT_BLOCKED (R35). -/
theorem State.outBlocked_iff (s : State) :
    s.outBlocked = true ↔ s.life = .run ∧ s.AllReady ∧ ¬s.HasRoom := by
  by_cases hl : s.life = .run
  · rw [← s.availAll_iff hl, ← s.room_iff]; simp [State.outBlocked, hl]
  · simp [State.outBlocked, hl]

/-- PREMATURE_ANY (R35). -/
theorem State.prematureAny_iff (s : State) : s.prematureAny = true ↔ ∃ p, s.prem p = true := by
  simp only [State.prematureAny, List.any_eq_true, State.prem, State.port, List.getD_eq_getElem?_getD]
  constructor
  · rintro ⟨q, hq, hp⟩
    obtain ⟨p, hp'⟩ := List.mem_iff_getElem?.1 hq
    exact ⟨p, by simpa [hp'] using hp⟩
  · rintro ⟨p, hp⟩
    cases hg : s.ports[p]? with
    | none => simp [hg] at hp
    | some q => exact ⟨q, List.mem_of_getElem? hg, by simpa [hg] using hp⟩

/-- `m` is in MODES iff some row of the table has it as its identifier (R8). -/
theorem Params_isMode_iff (P : Params) (m : BitVec 8) : P.isMode m = true ↔ ∃ r ∈ P.modes, r.id = m := by
  simp [Params.isMode, Params.row]

end Sys2Proof.Machine
end

