-- ==== Sys2Proof/Tests/Slice0.lean ====
section
/-! SUPPORT. Tests on fixed values. Expected results come from the words and vectors of spec/95_test_vectors.md, each
named by its section there, or from the rule named; and one witness for each statement that has hypotheses: a
concrete state and operands that meet them all. -/
namespace Sys2Proof.Tests

open Sys2Proof.Machine

/-! ### Fixtures: MT_TEST, PS_A and PS_B of spec/95 section 0 -/

def mode1 : ModeRow := { id := 1, fbs := 4, sched := [true, true, true, true], cap := 40 }
def mode2 : ModeRow := { id := 2, fbs := 3, sched := [true, false], cap := 8 }
def mode3 : ModeRow := { id := 3, fbs := 8, sched := [false], cap := 4 }
def mtTest : List ModeRow := [mode1, mode2, mode3]

def psA : Params := { modes := mtTest, nsubMax := 4, capFic := .inf, capSub := .inf, outCap := .inf }

def psB : Params :=
  { modes := mtTest, nsubMax := 4, capFic := .bounded 8, capSub := .bounded 320, outCap := .bounded 320 }

/-- The reset state of PS_A. -/
def idle : State := State.resetWith psA

/-- A size list written, not yet committed. -/
def listed (P : Params) (m : BitVec 8) (n : BitVec 16) (sizes : List (BitVec 16)) : State :=
  { State.resetWith P with
    mode := m
    count := n
    listLen := BitVec.ofNat 16 sizes.length
    sizes := (sizes ++ List.replicate P.nsubMax 0).take P.nsubMax }

/-- The state after `CONFIG m, sizes`, for a valid configuration. -/
def constructed (P : Params) (m : BitVec 8) (sizes : List (BitVec 16)) : State :=
  { listed P m (BitVec.ofNat 16 sizes.length) sizes with life := .run }

/-- Port `p` holding `bytes`. -/
def holding (s : State) (p : Nat) (bytes : List Byte) : State := s.setPort p { s.port p with fifo := bytes }

/-- The last reported word, if the operation had a step and returned one. -/
def word (o : Host.Outcome State Fault Refusal) : Option Word :=
  match o with
  | .next t =>
    match t.response with
    | some (.word v) => some v
    | some (.byte _) => none
    | none => none
  | .fault _ => none
  | .refused _ => none

/-- The next state, if there is one. -/
def nextState (o : Host.Outcome State Fault Refusal) : Option State :=
  match o with
  | .next t => some t
  | .fault _ => none
  | .refused _ => none

/-- Why there is no step, if there is none. -/
def heldFor (o : Host.Outcome State Fault Refusal) : Option Fault :=
  match o with
  | .next _ => none
  | .fault r => some r
  | .refused _ => none

theorem next_of_nextState {o : Host.Outcome State Fault Refusal} {t : State} (h : nextState o = some t) :
    o = .next t := by
  cases o <;> simp_all [nextState]

/-- `CONFIG 2, [1, 1]`: spec/95 section 2.4 and program P4. -/
def run2 : State := constructed psA 2 [1, 1]

/-- P4 just before its first ASM, without the bytes beyond the first CIF: exactly one CIF is there. -/
def oneCif : State :=
  holding (holding (holding run2 0 [0xA0, 0xA1, 0xA2]) 1 [0x10, 0x11, 0x12, 0x13, 0x14, 0x15, 0x16, 0x17]) 2
    [0x20, 0x21, 0x22, 0x23, 0x24, 0x25, 0x26, 0x27]

/-- Port 1 has ended with 3 bytes for a slot of 8, as in P4 before its END; the output is empty. -/
def endedShort : State := run2.setPort 1 { fifo := [0x18, 0x19, 0x1A], eosf := true }

/-- CIF index 1, the last of the frame, with one CIF there: no FIC is due. -/
def lastCif : State := { holding oneCif 0 [] with cifctr := 1 }

/-- PS_B, one CIF there, `n` bytes in OUT. -/
def crowded (n : Nat) : State :=
  { holding (holding (holding (constructed psB 2 [1, 1]) 0 [0xA0, 0xA1, 0xA2]) 1 (List.replicate 8 0x10)) 2
      (List.replicate 8 0x20) with out := List.replicate n 0 }

/-- The run is over: END, with OUT empty. -/
def drained : State := { endedShort.raiseEndOfStream with out := [] }

/-- CFGERR, as at the end of P3. -/
def rejected : State := { listed psA 1 2 [20, 20] with life := .cfgErr, err := 5 }

/-! ### Well-formedness: one ill-formed term for each check

An instruction's operand ranges are the values of its operand types, so no ill-formed instruction can be written down;
the checks that can refuse are those on the parameters (R8, R10, R11, R12). -/

theorem test_psA_admissible : psA.Admissible := by decide
theorem test_psB_admissible : psB.Admissible := by decide
theorem test_no_mode_refused : ¬({ psA with modes := [] } : Params).HasMode := by decide
theorem test_equal_ids_refused : ¬({ psA with modes := [mode1, mode1] } : Params).IdsDistinct := by decide
theorem test_row_without_cif_refused :
    ¬({ psA with modes := [{ mode1 with sched := [] }] } : Params).RowsInBounds := by decide
theorem test_row_with_wide_fbs_refused :
    ¬({ psA with modes := [{ mode1 with fbs := 65536 }] } : Params).RowsInBounds := by decide
theorem test_row_with_wide_cap_refused :
    ¬({ psA with modes := [{ mode1 with cap := 32768 }] } : Params).RowsInBounds := by decide
theorem test_nsub_max_256_refused : ¬({ psA with nsubMax := 256 } : Params).NsubMaxInBounds := by decide
theorem test_small_cap_fic_refused : ¬({ psB with capFic := .bounded 7 } : Params).CapFicSuffices := by decide
theorem test_small_cap_sub_refused : ¬({ psB with capSub := .bounded 319 } : Params).CapSubSuffices := by decide
theorem test_small_out_cap_refused : ¬({ psB with outCap := .bounded 319 } : Params).OutCapSuffices := by decide
theorem test_admitted_keeps_admissible : psB.admitted = psB := by decide
theorem test_admitted_replaces_others : ({ psB with nsubMax := 0 } : Params).admitted = Params.minimal := by decide

/-! ### Decoding: words written out from the opcode map of R80 and spec/95 section 2.1 -/

theorem test_decode_reset : decode 0x10000000 = some .reset := by decide
theorem test_decode_cfg_mode : decode 0x200000FF = some (.cfgMode 255) := by decide
theorem test_decode_cfg_count : decode 0x300000FF = some (.cfgCount 255) := by decide
theorem test_decode_cfg_size : decode 0x40008000 = some (.cfgSize (-32768)) := by decide
theorem test_decode_cfg_commit : decode 0x50000000 = some .cfgCommit := by decide
theorem test_decode_push : decode 0x600000AB = some (.push 0 0xAB) := by decide
theorem test_decode_push_port : decode 0x6FF000FF = some (.push 255 0xFF) := by decide
theorem test_decode_eos : decode 0x70200000 = some (.eos 2) := by decide
theorem test_decode_asm : decode 0x80000000 = some .asm := by decide
theorem test_decode_pop : decode 0x90000000 = some .pop := by decide
theorem test_decode_rdsr_state : decode 0xA0000000 = some .rdsrState := by decide
theorem test_decode_rdsr_err : decode 0xA0000001 = some .rdsrErr := by decide
theorem test_decode_rdsr_mode : decode 0xA0000002 = some .rdsrMode := by decide
theorem test_decode_rdsr_count : decode 0xA0000003 = some .rdsrCount := by decide
theorem test_decode_rdsr_listlen : decode 0xA0000004 = some .rdsrListlen := by decide
theorem test_decode_rdsr_cifctr : decode 0xA0000005 = some .rdsrCifctr := by decide
theorem test_decode_rdsr_frmctr : decode 0xA0000006 = some .rdsrFrmctr := by decide
theorem test_decode_rdsr_outlvl : decode 0xA0000007 = some .rdsrOutlvl := by decide
theorem test_decode_rdsr_status : decode 0xA0000008 = some .rdsrStatus := by decide
theorem test_decode_rdsr_ciflen : decode 0xA0000009 = some .rdsrCiflen := by decide
theorem test_decode_rdsr_framelen : decode 0xA000000A = some .rdsrFramelen := by decide
theorem test_decode_rdsr_lvl : decode 0xA0200010 = some (.rdsrLvl 2) := by decide
theorem test_decode_rdsr_slot : decode 0xA0100011 = some (.rdsrSlot 1) := by decide
theorem test_decode_rdsr_pflags : decode 0xA0300012 = some (.rdsrPflags 3) := by decide
theorem test_decode_rdsr_resid : decode 0xA0100013 = some (.rdsrResid 1) := by decide
theorem test_decode_rdsr_size : decode 0xAFF00014 = some (.rdsrSize 255) := by decide

/-- The reserved words of spec/95 section 2.1. -/
theorem test_reserved_words_refused :
    ([0x00000000, 0xB0000000, 0xF0000000, 0xFFFFFFFF, 0x10000001, 0x10100000, 0x20000100, 0x20100001, 0x30010000,
      0x40100001, 0x50000001, 0x60110001, 0x60100100, 0x70100001, 0x80100000, 0x90000001, 0xA000000B, 0xA000000F,
      0xA0000015, 0xA00000FF, 0xA0100008, 0xA0000108] : List Word).map decode = List.replicate 22 none := by decide

/-- The rows of the opcode map, one each for RDSR's registers: no two rows share a word (R80). -/
theorem test_no_two_rows_overlap :
    opcodeMap.Pairwise (fun r q => r.pattern &&& (r.mask &&& q.mask) ≠ q.pattern &&& (r.mask &&& q.mask)) := by
  decide

/-- The host's entry to the decoder reads the same word. -/
theorem test_decodeTableWord : decodeTableWord 32 0x6FF000FF = some (.push 255 0xFF) := by decide

/-! ### One step of each operation, from the vectors of spec/95 -/

/-- Section 2.6 row 11: RESET from the end of a run. -/
theorem test_reset_from_end : nextState (exec .reset drained) = some idle := by decide

/-- Section 2.2, last write wins. -/
theorem test_cfg_mode_last_write : (nextState (exec (.cfgMode 1) { idle with mode := 3 })).map State.mode = some 1 := by
  decide

/-- Section 2.2, after row 1: CFG_MODE in RUN changes nothing. -/
theorem test_cfg_mode_ignored_in_run : nextState (exec (.cfgMode 2) (constructed psA 1 [15, 15])) =
    some (constructed psA 1 [15, 15]) := by decide

/-- Section 2.2, last write wins. -/
theorem test_cfg_count_last_write : (nextState (exec (.cfgCount 2) { idle with count := 9 })).map State.count =
    some 2 := by decide

/-- Section 2.2 row 15: the size -1 is stored as a pattern. -/
theorem test_cfg_size_stores_pattern : (nextState (exec (.cfgSize (-1)) idle)).map State.sizes =
    some [0xFFFF, 0, 0, 0] := by decide

/-- Section 2.2 row 12: the fifth size is counted, not stored. -/
theorem test_cfg_size_past_end : nextState (exec (.cfgSize 9) (listed psA 1 5 [1, 1, 1, 1])) =
    some (listed psA 1 5 [1, 1, 1, 1, 9]) := by decide

/-- Section 2.2 row 2: the capacity reached exactly is accepted. -/
theorem test_cfg_commit_equality : nextState (exec .cfgCommit (listed psA 1 1 [39])) =
    some (constructed psA 1 [39]) := by decide

/-- Section 2.2 row 4: the FIC term decides. -/
theorem test_cfg_commit_fic_term : nextState (exec .cfgCommit (listed psA 1 2 [20, 20])) = some rejected := by decide

/-- Section 2.3 row 3. -/
theorem test_push_appends : (nextState (exec (.push 1 0x18) oneCif)).map (fun t => t.fifo 1) =
    some [0x10, 0x11, 0x12, 0x13, 0x14, 0x15, 0x16, 0x17, 0x18] := by decide

/-- Section 2.3 row 9: the ninth FIC byte is held. -/
theorem test_push_full_held :
    heldFor (exec (.push 0 0) (holding (constructed psB 1 [15, 15]) 0 (List.replicate 8 0xF0))) = some .heldFull := by
  decide

/-- Section 2.3 row 6: after EOS the port takes no byte. -/
theorem test_eos_then_push_held :
    (nextState (exec (.eos 1) run2)).map (fun t => (t.eosf 1, heldFor (exec (.push 1 1) t))) =
      some (true, some .heldEnded) := by decide

/-- Section 2.3 row 2. -/
theorem test_eos_in_idle_held : heldFor (exec (.eos 1) idle) = some .heldNotRunning := by decide

/-- P4's EMIT: FIC slice, then the subchannels in order. -/
theorem test_asm_emits_one_cif :
    (nextState (exec .asm oneCif)).map (fun t => (t.out, t.cifctr, t.frmctr)) =
      some ([0xA0, 0xA1, 0xA2, 0x10, 0x11, 0x12, 0x13, 0x14, 0x15, 0x16, 0x17, 0x20, 0x21, 0x22, 0x23, 0x24, 0x25,
        0x26, 0x27], 1, 0) := by decide

/-- Section 2.4 row c2: END although port 0 and port 1 have not ended. -/
theorem test_asm_end :
    (nextState (exec .asm ((holding (holding run2 0 [1, 1, 1]) 1 [1, 1]).setPort 2
        { fifo := [1, 1], eosf := true }))).map
      (fun t => (t.life, t.ports.map (fun q => q.fifo.length), t.resid 2, t.prem 2, t.statusWord)) =
    some (.ended, [3, 2, 0, 0, 0], 2, true, 0x4D) := by decide

/-- Section 2.5 row 2. -/
theorem test_pop : (nextState (exec .pop { run2 with out := [0xF0, 0xF1, 0x01, 0x01] })).map
    (fun t => (t.out, t.response)) = some ([0xF1, 0x01, 0x01], some (.byte 0xF0)) := by decide

/-- Section 2.5 row 1. -/
theorem test_pop_empty_held : heldFor (exec .pop idle) = some .heldEmpty := by decide

/-- P3. -/
theorem test_rdsr_state : word (exec .rdsrState rejected) = some 3 := by decide
/-- P3. -/
theorem test_rdsr_err : word (exec .rdsrErr rejected) = some 5 := by decide
/-- P3, end state. -/
theorem test_rdsr_mode : word (exec .rdsrMode rejected) = some 1 := by decide
/-- P3, end state. -/
theorem test_rdsr_count : word (exec .rdsrCount rejected) = some 2 := by decide
/-- P3, end state. -/
theorem test_rdsr_listlen : word (exec .rdsrListlen rejected) = some 2 := by decide
/-- Section 2.4 row c1: `(0, 1)` after the EMIT. -/
theorem test_rdsr_cifctr : (nextState (exec .asm oneCif)).bind (fun t => word (exec .rdsrCifctr t)) = some 1 := by decide
/-- Section 2.4 row c6: `(1, 0)` after the second EMIT of the frame. -/
theorem test_rdsr_frmctr : (nextState (exec .asm lastCif)).bind (fun t => word (exec .rdsrFrmctr t)) = some 1 := by
  decide
/-- Section 2.4 row c1. -/
theorem test_rdsr_outlvl : (nextState (exec .asm oneCif)).bind (fun t => word (exec .rdsrOutlvl t)) = some 19 := by
  decide
/-- Section 2.4 row c4: OUT_VALID, OUT_BLOCKED and CONFIGURED. -/
theorem test_rdsr_status_blocked : word (exec .rdsrStatus (crowded 310)) = some 0xA1 := by decide +kernel
/-- P3: CFG_ERROR alone. -/
theorem test_rdsr_status_error : word (exec .rdsrStatus rejected) = some 0x02 := by decide
/-- Section 2.6 row 9. -/
theorem test_rdsr_ciflen : word (exec .rdsrCiflen { constructed psA 2 [1, 2] with cifctr := 1 }) = some 24 := by decide
/-- Section 2.6 row 8. -/
theorem test_rdsr_framelen : word (exec .rdsrFramelen (constructed psA 2 [1, 2])) = some 51 := by decide
/-- Section 2.3 row 3. -/
theorem test_rdsr_lvl : word (exec (.rdsrLvl 1) endedShort) = some 3 := by decide
/-- Section 2.6 row 5. -/
theorem test_rdsr_slot : word (exec (.rdsrSlot 1) (constructed psA 1 [15, 15])) = some 120 := by decide
/-- Section 2.6 row 5: no such port. -/
theorem test_rdsr_slot_absent : word (exec (.rdsrSlot 3) (constructed psA 1 [15, 15])) = some 0 := by decide
/-- Section 2.6 row 6: EXISTS and STARVED. -/
theorem test_rdsr_pflags_starved : word (exec (.rdsrPflags 2) (constructed psA 1 [15, 15])) = some 5 := by decide
/-- P4: EXISTS, EOSF and PREM. -/
theorem test_rdsr_pflags_ended : word (exec (.rdsrPflags 1) drained) = some 0x0B := by decide
/-- P4. -/
theorem test_rdsr_resid : word (exec (.rdsrResid 1) drained) = some 3 := by decide
/-- Section 2.2, after row 15: sign-extended. -/
theorem test_rdsr_size_negative : word (exec (.rdsrSize 1) (listed psA 1 1 [-1])) = some 0xFFFFFFFF := by decide
/-- Section 2.6 row 7: the FIC's CU-equivalent size. -/
theorem test_rdsr_size_fic : word (exec (.rdsrSize 0) (constructed psA 1 [15, 15])) = some 1 := by decide

/-- The first step after reset performs the word that stands where `step` fetches. -/
theorem test_step_runs_fetched_word :
    (nextState (step (State.reset.withFetchWord 32 0x20000007))).map State.mode = some 7 := by rfl

/-! ### Witnesses: states that meet the invariant -/

theorem idle_inv : idle.Inv := by constructor <;> decide
theorem run2_inv : run2.Inv := by constructor <;> decide
theorem oneCif_inv : oneCif.Inv := by constructor <;> decide
theorem lastCif_inv : lastCif.Inv := by constructor <;> decide
theorem endedShort_inv : endedShort.Inv := by constructor <;> decide
theorem drained_inv : drained.Inv := by constructor <;> decide
theorem rejected_inv : rejected.Inv := by constructor <;> decide

theorem oneCif_hasRoom : oneCif.HasRoom := oneCif.room_iff.1 (by decide)
theorem lastCif_hasRoom : lastCif.HasRoom := lastCif.room_iff.1 (by decide)

/-! ### Witnesses: for each statement with hypotheses, a case that meets them all, at boundary values -/

theorem witness_DecodeOfEncode :
    (Instr.push 255 255).WellFormed ∧ (Instr.cfgSize (-32768)).WellFormed ∧ (Instr.cfgCount 65535).WellFormed := by
  decide

theorem witness_EncodeOfDecode :
    decode 0x6FF000FF = some (.push 255 0xFF) ∧ decode 0x40008000 = some (.cfgSize (-32768)) := by decide

theorem witness_LegalIffExactlyOneRow :
    decode 0xAFF00014 = some (.rdsrSize 255) ∧ ∃ r ∈ opcodeMap, r.encodes 0xAFF00014 = true := by decide

theorem witness_StepPerformsTheDecodedWord :
    ({ idle with trace := [0x20000001, 0xA0000002] } : State).trace = 0x20000001 :: [0xA0000002] ∧
      decode 0x20000001 = some (.cfgMode 1) := by decide

theorem witness_StepStopsWithoutAnOperation :
    ({ idle with trace := [0] } : State).trace = 0 :: [] ∧ decode 0 = none ∧ idle.trace = [] := by decide

theorem witness_ResetStateReadsZero : isRdsr (.rdsrSize 255) = true ∧ isRdsr (.rdsrLvl 0) = true := by decide

/-- Outside IDLE; the last size that is stored, the first that is only counted, and the saturated list length. -/
theorem witness_CfgSizeAppends :
    let last := listed psA 1 4 [1, 1, 1]
    let past := listed psA 1 4 [1, 1, 1, 1]
    let full := { listed psA 1 4 [1, 1, 1, 1] with listLen := 65535 }
    run2.life ≠ .idle ∧ (last.life = .idle ∧ last.Shape ∧ last.listLen.toNat < last.hw.nsubMax) ∧
      (past.life = .idle ∧ past.Shape ∧ past.hw.nsubMax ≤ past.listLen.toNat) ∧
      (full.life = .idle ∧ full.Shape ∧ full.hw.nsubMax ≤ full.listLen.toNat) := by decide

theorem witness_CfgOutsideIdleIgnored :
    (run2.life ≠ .idle ∧ isCfg (.cfgSize 1) = true) ∧ (drained.life ≠ .idle ∧ isCfg .cfgCommit = true) ∧
      (rejected.life ≠ .idle ∧ isCfg (.cfgMode 1) = true) := by decide

/-- One configuration for each of the six clauses, in their order: spec/95 section 2.2 rows 7, 10, 12, 14, 4 and 2. -/
theorem witness_CommitValidatesInOrder :
    ((listed psA 0 1 [1]).life = .idle ∧ ¬∃ r ∈ psA.modes, r.id = (listed psA 0 1 [1]).mode) ∧
      ((listed psA 1 3 [1, 1]).life = .idle ∧ (∃ r ∈ psA.modes, r.id = (listed psA 1 3 [1, 1]).mode) ∧
        (listed psA 1 3 [1, 1]).count ≠ (listed psA 1 3 [1, 1]).listLen) ∧
      (let s := listed psA 1 5 [1, 1, 1, 1, 1]
       s.life = .idle ∧ s.count = s.listLen ∧ ¬(1 ≤ s.count.toNat ∧ s.count.toNat ≤ s.hw.nsubMax)) ∧
      (let s := listed psA 1 1 [0]
       s.life = .idle ∧ s.count = s.listLen ∧ (1 ≤ s.count.toNat ∧ s.count.toNat ≤ s.hw.nsubMax) ∧
         ¬∀ i, i < s.count.toNat → 0 < (s.sizeReg i).toInt) ∧
      (let s := listed psA 1 2 [20, 20]
       s.life = .idle ∧ s.count = s.listLen ∧ (∀ i, i < s.count.toNat → 0 < (s.sizeReg i).toInt) ∧
         ¬((s.hw.ficCu s.mode : Int) + ((List.range s.count.toNat).map (fun i => (s.sizeReg i).toInt)).sum ≤
           (s.hw.cap s.mode : Int))) ∧
      (let s := listed psA 1 1 [39]
       s.life = .idle ∧ s.count = s.listLen ∧ (∀ i, i < s.count.toNat → 0 < (s.sizeReg i).toInt) ∧
         (s.hw.ficCu s.mode : Int) + ((List.range s.count.toNat).map (fun i => (s.sizeReg i).toInt)).sum ≤
           (s.hw.cap s.mode : Int)) := by decide

theorem witness_FicCuIsTheCeiling :
    (0 < psA.cifs 2 ∧ psA.sched 2 0 = true ∧ psA.fbs 2 ≤ 8 * 1) ∧ ∀ c, c < psA.cifs 3 → psA.sched 3 c = false := by
  decide

/-- Rows 2 and 3 of spec/95 section 2.2: one ends in RUN, the other in CFGERR. -/
theorem witness_ConstructorContract :
    psA.Admissible ∧ [(39 : BitVec 16)].length ≤ 65535 ∧ [(40 : BitVec 16)].length ≤ 65535 ∧
      (nextState (execAll (pseudoConfig 1 [39]) idle)).map State.life = some .run ∧
      (nextState (execAll (pseudoConfig 1 [40]) idle)).map State.life = some .cfgErr := by decide

/-- The last port, and a FIC FIFO with space for one byte. -/
theorem witness_PushAppendsOneByte :
    (oneCif.life = .run ∧ (2 : BitVec 8).toNat ≤ oneCif.numSub ∧ (2 : BitVec 8).toNat < oneCif.ports.length ∧
        oneCif.eosf 2 = false ∧ oneCif.NotFull 2) ∧
      (let s := holding (constructed psB 1 [15, 15]) 0 (List.replicate 7 0)
       s.life = .run ∧ (0 : BitVec 8).toNat ≤ s.numSub ∧ (0 : BitVec 8).toNat < s.ports.length ∧ s.eosf 0 = false ∧
         s.NotFull 0) :=
  ⟨⟨rfl, by decide, by decide, rfl, (State.hasSpace_iff _ _).1 (by decide)⟩,
    ⟨rfl, by decide, by decide, rfl, (State.hasSpace_iff _ _).1 (by decide)⟩⟩

theorem witness_EosSetsTheFlag :
    oneCif.life = .run ∧ (2 : BitVec 8).toNat ≤ oneCif.numSub ∧ (2 : BitVec 8).toNat < oneCif.ports.length := by decide

/-- The four ways PUSH is held: not in RUN, port `N + 1`, an ended port, a full FIFO. -/
theorem witness_InputEnabledExactlyWhen :
    idle.life ≠ .run ∧ (run2.life = .run ∧ run2.numSub < (3 : BitVec 8).toNat) ∧
      (endedShort.life = .run ∧ (1 : BitVec 8).toNat ≤ endedShort.numSub ∧ endedShort.eosf 1 = true) ∧
      (let s := holding (constructed psB 1 [15, 15]) 0 (List.replicate 8 0)
       s.life = .run ∧ (0 : BitVec 8).toNat ≤ s.numSub ∧ s.eosf 0 = false ∧ ¬s.NotFull 0) :=
  ⟨by decide, by decide, by decide, ⟨rfl, by decide, rfl, fun h => absurd ((State.hasSpace_iff _ _).2 h) (by decide)⟩⟩

theorem witness_PushesOnDifferentPortsCommute :
    ∃ t u, (1 : BitVec 8) ≠ 2 ∧ exec (.push 1 0x18) run2 = .next t ∧ exec (.push 2 0x28) t = .next u :=
  ⟨_, _, by decide, rfl, rfl⟩

theorem witness_PushAndPopCommute :
    (∃ t u, exec (.push 1 0x18) { run2 with out := [0xAA] } = .next t ∧ exec .pop t = .next u) ∧
      ∃ t u, exec .pop { run2 with out := [0xAA] } = .next t ∧ exec (.push 1 0x18) t = .next u :=
  ⟨⟨_, _, rfl, rfl⟩, ⟨_, _, rfl, rfl⟩⟩

/-- EMIT with room at its limit, END, and STALL with one byte of room too few: spec/95 section 2.4. -/
theorem witness_AsmHasOneOutcome :
    ((crowded 301).life = .run ∧ (crowded 301).AllReady ∧ (crowded 301).HasRoom) ∧
      (endedShort.life = .run ∧ endedShort.EndedShort) ∧
      ¬((crowded 302).life = .run ∧
        (((crowded 302).AllReady ∧ (crowded 302).HasRoom) ∨ (crowded 302).EndedShort)) :=
  ⟨⟨rfl, by decide +kernel, (State.room_iff _).1 (by decide +kernel)⟩, ⟨rfl, 1, by decide⟩, fun h =>
    h.2.elim (fun g => absurd ((State.room_iff _).2 g.2) (by decide +kernel))
      (fun g => absurd ((State.endCond_iff _ rfl).2 g) (by decide +kernel))⟩

/-- Each of the four reasons, with one byte of room too few for the third. -/
theorem witness_AsmAndPopHeldForTheReason :
    drained.life ≠ .run ∧ (run2.life = .run ∧ ¬run2.AllReady ∧ ¬run2.EndedShort) ∧
      ((crowded 302).life = .run ∧ (crowded 302).AllReady ∧ ¬(crowded 302).HasRoom) ∧ drained.out = [] :=
  ⟨by decide, ⟨rfl, by decide, fun h => absurd ((State.endCond_iff run2 rfl).2 h) (by decide)⟩,
    ⟨rfl, by decide +kernel, fun h => absurd ((State.room_iff _).2 h) (by decide +kernel)⟩, rfl⟩

theorem witness_EmitTakesEverySlice :
    (oneCif.life = .run ∧ oneCif.AllReady ∧ oneCif.HasRoom) ∧
      (lastCif.life = .run ∧ lastCif.AllReady ∧ lastCif.HasRoom) :=
  ⟨⟨rfl, by decide, oneCif_hasRoom⟩, ⟨rfl, by decide, lastCif_hasRoom⟩⟩

theorem oneCif_emits : exec .asm oneCif = .next oneCif.emit.silent :=
  execAsm_emit oneCif rfl (by decide) oneCif_hasRoom

theorem lastCif_emits : exec .asm lastCif = .next lastCif.emit.silent :=
  execAsm_emit lastCif rfl (by decide) lastCif_hasRoom

theorem endedShort_ends : exec .asm endedShort = .next endedShort.raiseEndOfStream.silent :=
  execAsm_end endedShort rfl ⟨1, by decide⟩

theorem witness_EmittedCifLayout : exec .asm oneCif = .next oneCif.emit.silent ∧ oneCif.emit.silent.life = .run ∧
    (2 : Nat) ≤ oneCif.numSub := ⟨oneCif_emits, by decide, by decide⟩

/-- An EMIT inside the frame, the EMIT that ends the frame, an END, and an operation that is neither ASM nor RESET. -/
theorem witness_CountersAdvanceOnlyOnEmit :
    (oneCif.Inv ∧ exec .asm oneCif = .next oneCif.emit.silent ∧ oneCif.emit.silent.life = .run ∧
        oneCif.emit.silent.cifctr ≠ 0) ∧
      (lastCif.Inv ∧ exec .asm lastCif = .next lastCif.emit.silent ∧ lastCif.emit.silent.life = .run ∧
        lastCif.emit.silent.cifctr = 0) ∧
      (endedShort.Inv ∧ exec .asm endedShort = .next endedShort.raiseEndOfStream.silent ∧
        endedShort.raiseEndOfStream.silent.life = .ended) ∧
      ∃ t, lastCif.Inv ∧ Instr.eos 1 ≠ .asm ∧ Instr.eos 1 ≠ .reset ∧ exec (.eos 1) lastCif = .next t :=
  ⟨⟨oneCif_inv, oneCif_emits, by decide, by decide⟩, ⟨lastCif_inv, lastCif_emits, by decide, by decide⟩,
    ⟨endedShort_inv, endedShort_ends, by decide⟩, ⟨_, lastCif_inv, by decide, by decide, rfl⟩⟩

/-- A port that has ended and the last port, which has not. -/
theorem witness_EndDiscardsAndReports :
    (endedShort.life = .run ∧ endedShort.EndedShort) ∧ ((1 : Nat) ≤ endedShort.numSub ∧ endedShort.eosf 1 = true) ∧
      ¬((2 : Nat) ≤ endedShort.numSub ∧ endedShort.eosf 2 = true) := ⟨⟨rfl, 1, by decide⟩, by decide, by decide⟩

theorem witness_CifLengthBounds :
    (run2.Inv ∧ run2.Configured ∧ run2.out = []) ∧ (oneCif.Inv ∧ oneCif.Configured) ∧ (drained.Inv ∧ drained.Configured) :=
  ⟨⟨run2_inv, by decide, rfl⟩, ⟨oneCif_inv, by decide⟩, ⟨drained_inv, by decide⟩⟩

/-- Clause 3 of CifLengthBounds: a full port FIFO of the last port. -/
theorem witness_CifLengthBounds_full :
    let s := holding (constructed psB 1 [15, 15]) 0 (List.replicate 8 0)
    s.Inv ∧ s.Configured ∧ 0 ≤ s.numSub ∧ ¬s.NotFull 0 :=
  ⟨by constructor <;> decide, by decide, by decide, fun h => absurd ((State.hasSpace_iff _ _).2 h) (by decide)⟩

/-- A mode with a schedule that is not uniform, and one that is. -/
theorem witness_ConstantLengthIffUniform :
    (run2.Inv ∧ run2.Configured) ∧ ((constructed psA 1 [39]).Inv ∧ (constructed psA 1 [39]).Configured) :=
  ⟨⟨run2_inv, by decide⟩, ⟨by constructor <;> decide, by decide⟩⟩

theorem witness_SlotsAreWholeCapacityUnits : run2.Inv ∧ run2.Configured ∧ 1 ≤ (2 : Nat) ∧ (2 : Nat) ≤ run2.numSub :=
  ⟨run2_inv, by decide, by decide, by decide⟩

/-- A short port still open, a short port that has ended, and all ports ready. -/
theorem witness_NoDeadlockInRun :
    (run2.Inv ∧ run2.life = .run ∧ (2 : BitVec 8).toNat ≤ run2.numSub ∧ ¬run2.Ready 2 ∧ run2.eosf 2 = false) ∧
      (endedShort.Inv ∧ endedShort.life = .run ∧ endedShort.EndedShort) ∧
      (oneCif.Inv ∧ oneCif.life = .run ∧ oneCif.AllReady) :=
  ⟨⟨run2_inv, by decide, by decide, by decide, by decide⟩, ⟨endedShort_inv, rfl, 1, by decide⟩,
    ⟨oneCif_inv, rfl, by decide⟩⟩

theorem witness_PseudoRunEndsWhereAsmIsHeld : oneCif.Inv ∧ oneCif.life = .run ∧ pseudoRun oneCif = [.asm] :=
  ⟨oneCif_inv, rfl, by decide⟩

theorem witness_PopTakesTheHead :
    ({ drained with out := [0xAA] } : State).out = 0xAA :: [] ∧ rejected.out = [] := by decide

theorem witness_OnlyPopAndRdsrReturn :
    (∃ t, exec .pop (crowded 1) = .next t) ∧ (∃ t, exec (.rdsrSize 9) run2 = .next t ∧ isRdsr (.rdsrSize 9) = true) ∧
      ∃ t, exec (.eos 1) run2 = .next t ∧ Instr.eos 1 ≠ .pop ∧ isRdsr (.eos 1) = false :=
  ⟨⟨_, rfl⟩, ⟨_, rfl, rfl⟩, ⟨_, rfl, by decide, rfl⟩⟩

theorem witness_OverStaysOver : drained.Over ∧ ∃ t, exec (.cfgSize 1) drained = .next t := ⟨by decide, _, rfl⟩

theorem witness_GlobalRegistersRead : drained.Configured ∧ ¬rejected.Configured := by decide

/-- Port NSUB_MAX and the port after it, port `N` and the port after it, and the FIC port in each of its two cases. -/
theorem witness_PortRegistersRead :
    (4 : BitVec 8).toNat ≤ run2.hw.nsubMax ∧ run2.hw.nsubMax < (5 : BitVec 8).toNat ∧
      (run2.Configured ∧ (2 : BitVec 8).toNat ≤ run2.numSub) ∧ ¬(run2.Configured ∧ (3 : BitVec 8).toNat ≤ run2.numSub) ∧
      (4 : BitVec 8).toNat ≠ 0 ∧
      ((0 : BitVec 8).toNat = 0 ∧ rejected.life ≠ .idle ∧ ∃ r ∈ rejected.hw.modes, r.id = rejected.mode) ∧
      idle.life = .idle := by decide

theorem witness_PortFlagsBits : (4 : BitVec 8).toNat ≤ drained.hw.nsubMax := by decide

theorem witness_ResetMeetsTheInvariant : psA.Admissible ∧ psB.Admissible := by decide

/-- The last instant of a frame: the next word is ASM. -/
theorem witness_StepKeepsTheInvariant :
    ∃ t, State.Inv { lastCif with trace := [0x80000000] } ∧ step { lastCif with trace := [0x80000000] } = .next t :=
  ⟨_, by constructor <;> decide,
    execAsm_emit { lastCif with trace := [] } rfl (by decide) ((State.room_iff _).1 (by decide))⟩

theorem witness_RunsFromResetKeepTheInvariant :
    ∃ t, psA.Admissible ∧
      Sys2Proof.core.run 1 { State.resetWith psA with trace := [0x20000001, 0x30000001] } = .next t :=
  ⟨_, by decide, rfl⟩

/-- A CFG_COMMIT that fails, a RESET that clears ERR; the reachable states are witnessed below. -/
theorem witness_ErrorCodeIffConfigError :
    (∃ t, ((listed psA 1 2 [20, 20]).err ≠ 0 ↔ (listed psA 1 2 [20, 20]).life = .cfgErr) ∧
        exec .cfgCommit (listed psA 1 2 [20, 20]) = .next t ∧ t.err ≠ (listed psA 1 2 [20, 20]).err) ∧
      ∃ t, (rejected.err ≠ 0 ↔ rejected.life = .cfgErr) ∧ exec .reset rejected = .next t ∧ t.err ≠ rejected.err :=
  ⟨⟨_, by decide, rfl, by decide⟩, ⟨_, by decide, rfl, by decide⟩⟩

theorem witness_LifecycleTransitions :
    (∃ t, exec .reset drained = .next t ∧ t.life ≠ drained.life) ∧
      (∃ t, exec .cfgCommit (listed psA 1 1 [39]) = .next t ∧ t.life ≠ (listed psA 1 1 [39]).life) ∧
      ∃ t, exec .asm endedShort = .next t ∧ t.life ≠ endedShort.life :=
  ⟨⟨_, rfl, by decide⟩, ⟨_, rfl, by decide⟩, ⟨_, endedShort_ends, by decide⟩⟩

/-- CFGERR, END, and RUN with an ended port. -/
theorem witness_StableFacts :
    (∃ t, exec (.cfgSize 1) rejected = .next t ∧ Instr.cfgSize 1 ≠ .reset ∧ rejected.life = .cfgErr) ∧
      (∃ t, exec (.rdsrLvl 1) drained = .next t ∧ Instr.rdsrLvl 1 ≠ .reset ∧ drained.life = .ended) ∧
      ∃ t, exec .asm endedShort = .next t ∧ Instr.asm ≠ .reset ∧ endedShort.life ≠ .idle ∧ endedShort.eosf 1 = true :=
  ⟨⟨_, rfl, by decide, rfl⟩, ⟨_, rfl, by decide, rfl⟩, ⟨_, endedShort_ends, by decide, by decide, rfl⟩⟩

theorem witness_LifecycleTable :
    (Instr.reset = .reset ∨ isCfg .reset = true ∨ isRdsr .reset = true) ∧ isCfg (.cfgMode 0) = true ∧
      isRdsr (.rdsrSlot 255) = true ∧ drained.life ≠ .run ∧ rejected.life ≠ .run := by decide

/-! ### Witnesses: reachable states with their histories -/

/-- The history of a list of operations, each of which has a step. -/
def historyOf : List Instr → State → History → History
  | [], _, h => h
  | i :: rest, s, h =>
    match exec i s with
    | .next t => historyOf rest t (h.after i s t)
    | .fault _ => h
    | .refused _ => h

theorem reachable_execAll {P : Params} : ∀ (is : List Instr) {s t : State} {h : History},
    Reachable P s h → execAll is s = .next t → Reachable P t (historyOf is s h)
  | [], s, t, h, hr, hx => by cases hx; exact hr
  | i :: rest, s, t, h, hr, hx => by
    cases hi : exec i s with
    | next u => simp only [execAll, historyOf, hi] at hx ⊢; exact reachable_execAll rest (.op i hr hi) hx
    | fault r => simp [execAll, hi] at hx
    | refused r => simp [execAll, hi] at hx

/-- One subchannel of one capacity unit, no FIC (mode 3): eight bytes make a CIF. -/
def onePort : List Instr := pseudoConfig 3 [1]

/-- One CIF and one byte more, the FIC byte first. -/
def trafficA : List Instr := onePort ++ [.push 0 0xF0] ++ pseudoPushN 1 9 0x11 ++ [.asm]

/-- The same bytes on each port, the FIC byte last, and one byte popped. -/
def trafficB : List Instr := onePort ++ pseudoPushN 1 8 0x11 ++ [.asm, .pop, .push 1 0x11, .push 0 0xF0]

/-- One CIF and one byte more, and the end of the stream. -/
def trafficC : List Instr := trafficA ++ [.eos 1, .asm]

/-- The state the operations lead to from the reset state of PS_A. -/
def reached (is : List Instr) : State := (nextState (execAll is idle)).getD idle

/-- Their history. -/
def told (is : List Instr) : History := historyOf is idle History.empty

theorem reached_reachable (is : List Instr) (h : (nextState (execAll is idle)).isSome = true) :
    Reachable psA (reached is) (told is) := by
  refine reachable_execAll is .reset (next_of_nextState ?_)
  rw [reached]
  cases hn : nextState (execAll is idle) with
  | some t => rfl
  | none => rw [hn] at h; cases h

theorem trafficA_reachable : Reachable psA (reached trafficA) (told trafficA) := reached_reachable _ (by decide)
theorem trafficB_reachable : Reachable psA (reached trafficB) (told trafficB) := reached_reachable _ (by decide)
theorem trafficC_reachable : Reachable psA (reached trafficC) (told trafficC) := reached_reachable _ (by decide)

/-- In RUN with a starved port that has not ended and room in OUT, nothing more can be assembled. -/
theorem quiescent_of_starved (s : State) (h : s.life = .run) (hr : s.room = true)
    (hs : heldFor (exec .asm s) = some .heldStarved) : s.Quiescent :=
  .inr ⟨h, s.room_iff.1 hr, fun t ht => by rw [ht] at hs; cases hs⟩

theorem trafficA_quiescent : (reached trafficA).Quiescent :=
  quiescent_of_starved _ (by decide) (by decide) (by decide)
theorem trafficB_quiescent : (reached trafficB).Quiescent :=
  quiescent_of_starved _ (by decide) (by decide) (by decide)
theorem trafficC_quiescent : (reached trafficC).Quiescent := .inl (by decide)

/-- X2 of spec/95: a configuration that is rejected is a reachable CFGERR state. -/
theorem witness_ErrorCodeIffConfigError_reachable :
    psA.Admissible ∧ Reachable psA (reached (pseudoConfig 1 [20, 20])) (told (pseudoConfig 1 [20, 20])) ∧
      (reached (pseudoConfig 1 [20, 20])).life = .cfgErr :=
  ⟨by decide, reached_reachable _ (by decide), by decide⟩

theorem witness_ReachableIsExplained : psA.Admissible ∧ Reachable psA (reached trafficC) (told trafficC) :=
  ⟨by decide, trafficC_reachable⟩

/-- RUN; and END with an ended port and with a port that has not ended. -/
theorem witness_NothingLostNothingDuplicated :
    (psA.Admissible ∧ Reachable psA (reached trafficA) (told trafficA) ∧ (reached trafficA).Configured ∧
        1 ≤ (reached trafficA).numSub ∧ (reached trafficA).life = .run ∧ (told trafficA).emits = 1) ∧
      (Reachable psA (reached trafficC) (told trafficC) ∧ (reached trafficC).Configured ∧
        (reached trafficC).life = .ended ∧ (reached trafficC).eosf 1 = true ∧ (reached trafficC).eosf 0 = false) :=
  ⟨⟨by decide, trafficA_reachable, by decide, by decide, by decide, by decide⟩,
    ⟨trafficC_reachable, by decide, by decide, by decide, by decide⟩⟩

/-- A mode with one CIF per frame has one CIF length. -/
theorem witness_OutputIsWholeCifs :
    psA.Admissible ∧ Reachable psA (reached trafficB) (told trafficB) ∧ (reached trafficB).Configured ∧
      ∀ c d, c < (reached trafficB).cifsPerFrame → d < (reached trafficB).cifsPerFrame →
        (reached trafficB).hw.sched (reached trafficB).mode c = (reached trafficB).hw.sched (reached trafficB).mode d :=
  ⟨by decide, trafficB_reachable, by decide, fun c d hc hd => by
    have h1 : (reached trafficB).cifsPerFrame = 1 := by decide
    rw [show c = d by omega]⟩

theorem witness_OutputIsTheCifsOfTheInputs :
    psA.Admissible ∧ Reachable psA (reached trafficB) (told trafficB) ∧ (reached trafficB).Configured ∧
      (told trafficB).emits = 1 := ⟨by decide, trafficB_reachable, by decide, by decide⟩

theorem witness_OutputLengthInFrames :
    psA.Admissible ∧ Reachable psA (reached trafficC) (told trafficC) ∧ (reached trafficC).Configured ∧
      (told trafficC).emits = 1 := ⟨by decide, trafficC_reachable, by decide, by decide⟩

theorem witness_PrematureIffPartialSlotPushed :
    psA.Admissible ∧ Reachable psA (reached trafficC) (told trafficC) ∧ (reached trafficC).life = .ended ∧
      1 ≤ (reached trafficC).numSub ∧ (reached trafficC).eosf 1 = true :=
  ⟨by decide, trafficC_reachable, by decide, by decide, by decide⟩

theorem witness_QuiescentMeansMaximal :
    (psA.Admissible ∧ Reachable psA (reached trafficA) (told trafficA) ∧ (reached trafficA).Configured ∧
        (reached trafficA).Quiescent) ∧
      (Reachable psA (reached trafficC) (told trafficC) ∧ (reached trafficC).Configured ∧
        (reached trafficC).Quiescent ∧ (reached trafficC).life = .ended) :=
  ⟨⟨by decide, trafficA_reachable, by decide, trafficA_quiescent⟩,
    ⟨trafficC_reachable, by decide, trafficC_quiescent, by decide⟩⟩

theorem witness_OutputIsDetermined :
    psA.Admissible ∧ Reachable psA (reached trafficA) (told trafficA) ∧
      Reachable psA (reached trafficB) (told trafficB) ∧ (reached trafficA).Configured ∧
      (reached trafficB).Configured ∧ SameConfig (reached trafficA) (reached trafficB) ∧
      (reached trafficA).Quiescent ∧ (reached trafficB).Quiescent ∧
      ∀ p, p ≤ (reached trafficA).numSub → (told trafficA).pushed p = (told trafficB).pushed p :=
  ⟨by decide, trafficA_reachable, trafficB_reachable, by decide, by decide, by decide, trafficA_quiescent,
    trafficB_quiescent, by decide⟩

/-- Just constructed, with nothing pushed; a PUSH has a step. -/
theorem witness_HistoryStaysExplained :
    ∃ t, run2.Inv ∧ Explains History.empty run2 ∧ exec (.push 1 0x18) run2 = .next t := by
  refine ⟨_, run2_inv, ?_, rfl⟩
  exact ⟨fun _ => rfl, by decide, by decide, by decide, by decide, by decide, by decide, by decide, by decide⟩

/-- A state with data bytes, and one map on them; ASM has a step in it. -/
theorem witness_DataBytesAreOpaque :
    oneCif.mapBytes (fun b => b + 1) ≠ oneCif ∧ ∃ t, exec .asm oneCif = .next t := ⟨by decide, _, oneCif_emits⟩

/-- An operation that has a step and one that is held. -/
theorem witness_FrameCounterIsUnused :
    (∃ t, exec .asm oneCif = .next t) ∧ (∃ t, exec .rdsrFrmctr oneCif = .next t) ∧
      exec .pop oneCif = .fault .heldEmpty := ⟨⟨_, oneCif_emits⟩, ⟨_, rfl⟩, rfl⟩

/-- A row of a table with distinct identifiers, the first and the last index of its schedule, and an absent mode. -/
theorem witness_ModeTableLookups :
    psA.IdsDistinct ∧ mode2 ∈ psA.modes ∧ (0 : Nat) < mode2.sched.length ∧ (1 : Nat) < mode2.sched.length ∧
      psA.isMode 7 = false := by decide

end Sys2Proof.Tests
end

section
/-! The scope family (spec/00_scope.md): what the lookups of MODE_TABLE read (R8), and the values of the derived functions
of R9 (`has_fic`, `fic_cu`, `uniform`, `slot`, `need`, `off`). -/
namespace Sys2Proof.Machine

section lookups

variable {P : Params} {m : BitVec 8} {r : ModeRow}

theorem Params_cifs_of_row (h : P.row m = some r) : P.cifs m = r.sched.length := by
  simp [Params.cifs, h, ModeRow.cifs]

theorem Params_fbs_of_row (h : P.row m = some r) : P.fbs m = r.fbs := by simp [Params.fbs, h]

theorem Params_cap_of_row (h : P.row m = some r) : P.cap m = r.cap := by simp [Params.cap, h]

theorem Params_sched_of_row (h : P.row m = some r) {c : Nat} (hc : c < r.sched.length) :
    P.sched m c = r.sched[c] := by
  simp [Params.sched, h, hc]

/-- `has_fic(m)`: some CIF index of the frame schedules the FIC (R9). -/
theorem Params_hasFic_iff (P : Params) (m : BitVec 8) :
    P.hasFic m = true ↔ ∃ c, c < P.cifs m ∧ P.sched m c = true := by
  simp [Params.hasFic, List.any_eq_true]

/-- `uniform(m)`: any two CIF indices of the frame have the same schedule value (R9). -/
theorem Params_uniform_iff (P : Params) (m : BitVec 8) :
    P.uniform m = true ↔ ∀ c, c < P.cifs m → ∀ d, d < P.cifs m → P.sched m c = P.sched m d := by
  simp [Params.uniform, List.all_eq_true]

/-- `has_fic` in terms of the row's schedule: the CIF indices are the positions of its entries. -/
theorem Params_hasFic_of_row (h : P.row m = some r) : P.hasFic m = true ↔ true ∈ r.sched := by
  rw [Params_hasFic_iff, Params_cifs_of_row h, List.mem_iff_getElem]
  constructor
  · rintro ⟨c, hc, hs⟩
    exact ⟨c, hc, (Params_sched_of_row h hc).symm.trans hs⟩
  · rintro ⟨c, hc, hs⟩
    exact ⟨c, hc, (Params_sched_of_row h hc).trans hs⟩

/-- `uniform` in terms of the row's schedule: all its entries are the same. -/
theorem Params_uniform_of_row (h : P.row m = some r) :
    P.uniform m = true ↔ ∀ a ∈ r.sched, ∀ b ∈ r.sched, a = b := by
  rw [Params_uniform_iff, Params_cifs_of_row h]
  constructor
  · intro hu a ha b hb
    obtain ⟨c, hc, rfl⟩ := List.mem_iff_getElem.1 ha
    obtain ⟨d, hd, rfl⟩ := List.mem_iff_getElem.1 hb
    rw [← Params_sched_of_row h hc, ← Params_sched_of_row h hd]
    exact hu c hc d hd
  · intro hu c hc d hd
    rw [Params_sched_of_row h hc, Params_sched_of_row h hd]
    exact hu _ (List.getElem_mem hc) _ (List.getElem_mem hd)

end lookups

section ficCu

theorem Params_ficCu_of_hasFic {P : Params} {m : BitVec 8} (h : P.hasFic m = true) :
    P.ficCu m = (P.fbs m + 7) / 8 := by
  simp [Params.ficCu, h, Config.cuBytes]

theorem Params_ficCu_of_not_hasFic {P : Params} {m : BitVec 8} (h : ¬P.hasFic m = true) : P.ficCu m = 0 := by
  simp [Params.ficCu, h]

end ficCu

section slots

@[simp] theorem State.slot_zero (s : State) : s.slot 0 = s.hw.fbs s.mode := rfl

theorem State.slot_sub (s : State) {p : Nat} (h1 : 1 ≤ p) (hp : p ≤ s.numSub) :
    s.slot p = 8 * (s.sizeReg (p - 1)).toInt.toNat := by
  rw [State.slot, if_neg (Nat.ne_of_gt h1), if_pos hp, Config.cuBytes]

/-- Every slot but the FIC's is whole capacity units; a port above N has slot 0. -/
theorem State.eight_dvd_slot (s : State) {p : Nat} (h1 : 1 ≤ p) : 8 ∣ s.slot p := by
  by_cases hp : p ≤ s.numSub
  · rw [s.slot_sub h1 hp]
    exact Nat.dvd_mul_right 8 _
  · rw [State.slot, if_neg (Nat.ne_of_gt h1), if_neg hp]
    exact Nat.dvd_zero 8

@[simp] theorem State.need_zero (s : State) (c : Nat) :
    s.need 0 c = if s.hw.sched s.mode c = true then s.hw.fbs s.mode else 0 := rfl

/-- A subchannel contributes its slot to every CIF (R126). -/
theorem State.need_sub (s : State) {p : Nat} (h1 : 1 ≤ p) (c : Nat) : s.need p c = s.slot p :=
  if_neg (Nat.ne_of_gt h1)

theorem State.capOf_zero (s : State) : s.capOf 0 = s.hw.capFic := rfl

theorem State.capOf_sub (s : State) {p : Nat} (h1 : 1 ≤ p) : s.capOf p = s.hw.capSub :=
  if_neg (Nat.ne_of_gt h1)

@[simp] theorem State.off_zero (s : State) (c : Nat) : s.off 0 c = 0 := rfl

/-- The slices follow one another in port order (R9, R134). -/
theorem State.off_succ (s : State) (p c : Nat) : s.off (p + 1) c = s.off p c + s.need p c := by
  simp [State.off, List.range_succ]

/-- Every subchannel slice starts whole capacity units after the FIC slice (R53, R54). -/
theorem State.off_eq_add_units (s : State) (c : Nat) {p : Nat} (h1 : 1 ≤ p) :
    ∃ k, s.off p c = s.off 1 c + 8 * k := by
  induction h1 with
  | refl => exact ⟨0, rfl⟩
  | @step p h1 ih =>
    obtain ⟨k, hk⟩ := ih
    obtain ⟨n, hn⟩ := s.eight_dvd_slot h1
    exact ⟨k + n, by rw [s.off_succ, s.need_sub h1, hk, hn]; omega⟩

/-- In a valid configuration the slot of a subchannel is its signed size in capacity units (R9, R41 item 3). -/
theorem State.slot_of_validConfig {s : State} (h : s.ValidConfig) {p : Nat} (h1 : 1 ≤ p) (hp : p ≤ s.numSub) :
    (s.slot p : Int) = 8 * (s.sizeReg (p - 1)).toInt := by
  obtain ⟨-, -, -, hpos, -⟩ := h
  have hsize : 1 ≤ (s.sizeReg (p - 1)).toInt := hpos (p - 1) (by omega)
  rw [s.slot_sub h1 hp]
  omega

end slots

/-- Settles O14: `(fbs + 7) / 8` is the ceiling of `fbs / 8` where `has_fic` holds. -/
theorem ficCuIsTheCeiling : Obligations.FicCuIsTheCeiling := by
  unfold Obligations.FicCuIsTheCeiling
  intro P m
  constructor
  · intro hs
    rw [Params_ficCu_of_hasFic ((Params_hasFic_iff P m).2 hs)]
    exact ⟨by omega, fun k hk => by omega⟩
  · intro hs
    refine Params_ficCu_of_not_hasFic fun hf => ?_
    obtain ⟨c, hc, ht⟩ := (Params_hasFic_iff P m).1 hf
    exact Bool.false_ne_true ((hs c hc).symm.trans ht)

/-- Settles O57: with distinct identifiers the row found for `r.id` is `r`, and every lookup reads that row. -/
theorem modeTableLookups : Obligations.ModeTableLookups := by
  unfold Obligations.ModeTableLookups
  intro P hd
  refine ⟨Params_isMode_iff P, fun r hr => ?_⟩
  have hrow : P.row r.id = some r := Params_row_of_mem hd hr
  refine ⟨Params_cifs_of_row hrow, Params_fbs_of_row hrow, Params_cap_of_row hrow, fun c hc => ?_,
    Params_hasFic_of_row hrow, Params_uniform_of_row hrow⟩
  rw [Params_sched_of_row hrow hc, List.getElem?_eq_getElem hc]

/-- Settles O29: the offsets by induction on the port, the sizes from the valid configuration of R41 item 3. -/
theorem slotsAreWholeCapacityUnits : Obligations.SlotsAreWholeCapacityUnits := by
  unfold Obligations.SlotsAreWholeCapacityUnits
  intro s hinv hconf
  obtain ⟨hvalid, -⟩ := hinv.valid hconf
  refine ⟨rfl, rfl, s.slot_zero, s.capOf_zero, fun p h1 => s.capOf_sub h1, fun c => ?_, fun p h1 hp => ?_⟩
  · exact ⟨s.need_zero c, s.off_zero c, by rw [s.off_succ, s.off_zero, Nat.zero_add]⟩
  · have hslot := State.slot_of_validConfig hvalid h1 hp
    refine ⟨hslot, fun c => ⟨by rw [s.need_sub h1, hslot], s.off_succ p c, ?_⟩⟩
    obtain ⟨k, hk⟩ := s.off_eq_add_units c h1
    omega

end Sys2Proof.Machine
end

section
/-! The state family (spec/10_state.md), the invariant of R41: it holds at reset, every operation keeps it, so every run
of any words keeps it. -/
namespace Sys2Proof.Machine

/-- The code of a ConfigurationError is one of 1 to 5 (R176). -/
theorem ConfigError_code_bounds (e : ConfigError) : 1 ≤ e.code.toNat ∧ e.code.toNat ≤ 5 := by
  cases e <;> decide

/-- A mode of MODES has 1 to 256 CIFs per frame (R8). -/
theorem Params_cifs_bounds {P : Params} {m : BitVec 8} (hb : P.RowsInBounds) (hm : P.isMode m = true) :
    0 < P.cifs m ∧ P.cifs m ≤ 256 := by
  obtain ⟨r, hmem, hrow⟩ := Params_row_of_isMode hm
  obtain ⟨hcifs, -⟩ := hb r hmem
  rw [Params_cifs_of_row hrow]
  exact hcifs

/-- LIFE is IDLE, CFGERR, or one of the two configured states (R21, R26). -/
theorem State.life_cases (s : State) : s.life = .idle ∨ s.life = .cfgErr ∨ s.Configured := by
  cases h : s.life <;> simp [State.Configured, h]

/-- FIFO, EOSF, RESID and PREM of a port that is as after RESET (R40). -/
theorem State.fields_of_port_eq {s : State} {p : Nat} (h : s.port p = {}) :
    s.fifo p = [] ∧ s.eosf p = false ∧ s.resid p = 0 ∧ s.prem p = false := by
  simp [State.fifo, State.eosf, State.resid, State.prem, h]

section sameConfig

variable {s t : State}

theorem State.numSub_congr (h : SameConfig s t) : t.numSub = s.numSub := by
  obtain ⟨-, -, hcount, -, -⟩ := h
  rw [State.numSub, hcount, State.numSub]

theorem State.capOf_congr (h : SameConfig s t) (p : Nat) : t.capOf p = s.capOf p := by
  obtain ⟨hhw, -⟩ := h
  rw [State.capOf, hhw, State.capOf]

theorem State.sizeReg_congr (h : SameConfig s t) (i : Nat) : t.sizeReg i = s.sizeReg i := by
  obtain ⟨-, -, -, -, hsizes⟩ := h
  rw [State.sizeReg, hsizes, State.sizeReg]

theorem State.cifsPerFrame_congr (h : SameConfig s t) : t.cifsPerFrame = s.cifsPerFrame := by
  obtain ⟨hhw, hmode, -⟩ := h
  rw [State.cifsPerFrame, hhw, hmode, State.cifsPerFrame]

theorem State.need_congr (h : SameConfig s t) (p c : Nat) : t.need p c = s.need p c := by
  have ⟨hhw, hmode, _⟩ := h
  have hslot : t.slot p = s.slot p := by
    simp only [State.slot, State.numSub_congr h, State.sizeReg_congr h, hhw, hmode]
  simp only [State.need, hslot, hhw, hmode]

theorem State.cifLen_congr (h : SameConfig s t) (c : Nat) : t.cifLen c = s.cifLen c := by
  simp only [State.cifLen, State.portNumbers, State.numSub_congr h, State.need_congr h]

theorem State.cifStart_congr (h : SameConfig s t) (k : Nat) : t.cifStart k = s.cifStart k := by
  simp only [State.cifStart, State.cifLen_congr h, State.cifsPerFrame_congr h]

/-- Whether the configuration is valid depends on the configuration registers only (R104). -/
theorem State.validConfig_congr (h : SameConfig s t) (hv : s.ValidConfig) : t.ValidConfig := by
  obtain ⟨hhw, hmode, hcount, hlen, hsizes⟩ := h
  simpa only [State.ValidConfig, State.allocatedCUs, State.numSub, State.sizeReg, hhw, hmode, hcount, hlen,
    hsizes] using hv

end sameConfig

section emission

/-- Each slice of an assembled CIF has the length R9 needs of it, when every port is ready (R132, R134). -/
theorem State.assembled_length {s : State} (ha : s.AllReady) :
    (s.assembled s.cifctr.toNat).length = s.cifLen s.cifctr.toNat := by
  rw [State.assembled, List.length_flatMap, State.cifLen]
  refine congrArg List.sum (List.map_congr_left fun p hp => ?_)
  have hready : s.Ready p := ha p ((s.mem_portNumbers p).1 hp)
  exact List.length_take_of_le hready

/-- CIFCTR after an EMIT: no overflow of its 8 bits, as a frame has at most 256 CIFs (R136). -/
theorem State.nextCif_toNat {s : State} (h : s.cifsPerFrame ≤ 256) :
    s.nextCif.toNat = if s.cifctr.toNat + 1 < s.cifsPerFrame then s.cifctr.toNat + 1 else 0 := by
  rw [State.nextCif]
  split
  · rw [BitVec.toNat_add_of_lt (by change s.cifctr.toNat + 1 < 2 ^ 8; omega)]
    rfl
  · rfl

end emission

namespace State.Inv

/-- The invariant says nothing of the model's own fields `response` and `trace`. -/
theorem withIO {s : State} (h : s.Inv) (r : Option Response) (ws : List Word) :
    State.Inv { s with response := r, trace := ws } :=
  ⟨h.admissible, h.shape, h.idle, h.sizesPastList, h.cfgErr, h.valid, h.cifctrBound, h.fifoBound, h.outBound,
    h.unusedPorts, h.reports⟩

theorem silent {s : State} (h : s.Inv) : s.silent.Inv := h.withIO none s.trace

theorem respond {s : State} (h : s.Inv) (v : Response) : (s.respond v).Inv := h.withIO (some v) s.trace

/-- A state in which nothing has streamed meets the invariant if its registers do: items 4 to 7 speak of empty FIFOs,
clear flags and a pointer at the first CIF of a mode that has one. -/
theorem of_unstreamed {s : State} (hadm : s.hw.Admissible) (hshape : s.Shape) (hun : s.Unstreamed)
    (hsizes : s.SizesPastListZero) (hidle : s.life = .idle → s.err = 0)
    (herr : s.life = .cfgErr → 1 ≤ s.err.toNat ∧ s.err.toNat ≤ 5)
    (hvalid : s.Configured → s.ValidConfig ∧ s.err = 0) : s.Inv := by
  have hport := fun p => State.fields_of_port_eq (State.port_of_unstreamed hun p)
  obtain ⟨hports, hout, hcif, hfrm⟩ := hun
  refine ⟨hadm, hshape, fun hl => ⟨⟨hports, hout, hcif, hfrm⟩, hidle hl⟩, hsizes,
    fun hl => ⟨⟨hports, hout, hcif, hfrm⟩, herr hl⟩, hvalid, fun hconf => ?_, fun p _ => ?_, ?_, fun p _ _ => ?_,
    fun p _ hreport => ?_⟩
  · obtain ⟨⟨hmode, -⟩, -⟩ := hvalid hconf
    obtain ⟨-, -, hrows, -⟩ := hadm
    simpa [hcif, State.cifsPerFrame] using (Params_cifs_bounds hrows hmode).1
  · simpa [hport] using Capacity_holds_zero _
  · simpa [hout] using Capacity_holds_zero _
  · simp [hport]
  · simp [hport] at hreport

/-- A state of IDLE meets the invariant if nothing has streamed and its registers are as item 1 says. -/
theorem of_idle {s : State} (hl : s.life = .idle) (hadm : s.hw.Admissible) (hshape : s.Shape) (hun : s.Unstreamed)
    (herr : s.err = 0) (hsizes : s.SizesPastListZero) : s.Inv :=
  .of_unstreamed hadm hshape hun hsizes (fun _ => herr) (fun h => by simp [hl] at h)
    (fun h => by simp [State.Configured, hl] at h)

/-- The invariant carries over between configured states with one configuration and ERR: items 1 to 3 are kept, and
what has to be shown are the streaming items 4 to 7. -/
theorem of_sameConfig {s t : State} (h : s.Inv) (hcfg : SameConfig s t) (hs : s.Configured) (ht : t.Configured)
    (herr : t.err = s.err) (hshape : t.Shape) (hcif : t.cifctr.toNat < s.cifsPerFrame)
    (hfifo : ∀ p, p ≤ s.hw.nsubMax → (s.capOf p).holds (t.fifo p).length = true)
    (hout : s.hw.outCap.holds t.out.length = true)
    (hunused : ∀ p, p ≤ s.hw.nsubMax → s.numSub < p → t.fifo p = [] ∧ t.eosf p = false)
    (hreports : ∀ p, p ≤ s.hw.nsubMax → (t.resid p ≠ 0 ∨ t.prem p = true) → t.life = .ended ∧ t.eosf p = true) :
    t.Inv := by
  have ⟨hhw, _, _, hlen, _⟩ := hcfg
  have hnotIdle : t.life ≠ .idle := by rcases ht with hl | hl <;> simp [hl]
  have hnotErr : t.life ≠ .cfgErr := by rcases ht with hl | hl <;> simp [hl]
  obtain ⟨hvalid, herr0⟩ := h.valid hs
  refine ⟨hhw ▸ h.admissible, hshape, fun hl => absurd hl hnotIdle, fun i hi hli => ?_,
    fun hl => absurd hl hnotErr, fun _ => ⟨State.validConfig_congr hcfg hvalid, herr.trans herr0⟩,
    fun _ => ?_, ?_, ?_, ?_, ?_⟩
  · rw [State.sizeReg_congr hcfg]
    exact h.sizesPastList i (hhw ▸ hi) (hlen ▸ hli)
  · rwa [State.cifsPerFrame_congr hcfg]
  · intro p hp
    rw [State.capOf_congr hcfg]
    exact hfifo p (hhw ▸ hp)
  · rwa [hhw]
  · intro p hp hn
    exact hunused p (hhw ▸ hp) (State.numSub_congr hcfg ▸ hn)
  · intro p hp
    exact hreports p (hhw ▸ hp)

/-- A frame of a configured state has at most 256 CIFs (R8, R41 item 3). -/
theorem cifsPerFrame_le {s : State} (h : s.Inv) (hc : s.Configured) : s.cifsPerFrame ≤ 256 := by
  obtain ⟨⟨hmode, -⟩, -⟩ := h.valid hc
  obtain ⟨-, -, hrows, -⟩ := h.admissible
  exact (Params_cifs_bounds hrows hmode).2

/-- Bytes stand in OUT only in a configured state (R41 items 1 and 2). -/
theorem configured_of_out {s : State} (h : s.Inv) (ho : s.out ≠ []) : s.Configured := by
  rcases s.life_cases with hl | hl | hl
  · obtain ⟨⟨-, hout, -⟩, -⟩ := h.idle hl
    exact absurd hout ho
  · obtain ⟨⟨-, hout, -⟩, -⟩ := h.cfgErr hl
    exact absurd hout ho
  · exact hl

/-- In RUN no residual has been recorded (R41 item 7). -/
theorem no_report_in_run {s : State} (h : s.Inv) (hl : s.life = .run) {p : Nat} (hp : p ≤ s.hw.nsubMax) :
    ¬(s.resid p ≠ 0 ∨ s.prem p = true) := by
  intro hr
  obtain ⟨he, -⟩ := h.reports p hp hr
  rw [hl] at he
  cases he

end State.Inv

/-- In the reset state nothing has streamed (R40). -/
theorem State.resetWith_unstreamed (P : Params) : (State.resetWith P).Unstreamed :=
  ⟨fun _ hq => List.eq_of_mem_replicate hq, rfl, rfl, rfl⟩

/-- The reset state of an admissible hardware meets the invariant (R40, R41). -/
theorem State.resetWith_inv {P : Params} (h : P.Admissible) : (State.resetWith P).Inv :=
  .of_unstreamed h (State.resetWith_shape P) (State.resetWith_unstreamed P)
    (fun i _ _ => State.resetWith_sizeReg P i) (fun _ => rfl) nofun (fun hc => by simp [State.Configured] at hc)

/-- A size appended to the list leaves the registers past the longer list 0 (R103). -/
theorem State.appendSize_sizesPastList {s : State} (hn : s.hw.NsubMaxInBounds) (h : s.SizesPastListZero)
    (v : BitVec 16) : (s.appendSize v).SizesPastListZero := by
  intro i hi hlen
  rw [State.appendSize_hw] at hi
  have hnext : s.listLen.toNat + 1 ≤ i := by
    rw [State.appendSize_listLen, bumpListLen, BitVec.toNat_ofNat] at hlen
    omega
  have hkeep : (s.appendSize v).sizeReg i = s.sizeReg i := by
    rw [State.sizeReg, State.appendSize_sizes, State.sizeReg]
    split
    · rw [List.getD_eq_getElem?_getD, List.getElem?_set_ne (by omega), List.getD_eq_getElem?_getD]
    · rfl
  rw [hkeep]
  exact h i hi (by omega)

section operations

variable {s : State} (hs : s.Inv)
include hs

/-- CFG_SIZE keeps the invariant (R103). -/
theorem State.Inv.appendSize (hl : s.life = .idle) (v : BitVec 16) : (s.appendSize v).Inv := by
  obtain ⟨hun, herr⟩ := hs.idle hl
  have heff : Effect (.cfgSize v) s (s.appendSize v).silent := .cfgSize s v hl
  obtain ⟨hshape, -⟩ := Effect_shape heff hs.shape
  obtain ⟨-, -, -, hn, -⟩ := hs.admissible
  exact .of_idle (by simpa using hl) (by simpa using hs.admissible) hshape (by simpa [State.Unstreamed] using hun)
    (by simpa using herr) (State.appendSize_sizesPastList hn hs.sizesPastList v)

/-- Construction keeps the invariant: a failed check leaves its code in ERR, a passed validation a valid configuration,
and nothing has streamed yet (R104, R110, R178). -/
theorem State.Inv.construct (hl : s.life = .idle) : s.construct.Inv := by
  obtain ⟨hun, herr⟩ := hs.idle hl
  rcases s.construct_cases with ⟨e, -, he⟩ | ⟨hnone, he⟩ <;> rw [he]
  · exact .of_unstreamed hs.admissible hs.shape hun hs.sizesPastList nofun (fun _ => ConfigError_code_bounds e)
      (fun hc => by simp [State.Configured] at hc)
  · exact .of_unstreamed hs.admissible hs.shape hun hs.sizesPastList nofun nofun
      (fun _ => ⟨State.validConfig_of_configFailure_none hnone, herr⟩)

/-- In RUN port `p <= N` exists in the hardware (R26, R41 item 3). -/
theorem State.Inv.port_lt (hl : s.life = .run) {p : Nat} (hp : p ≤ s.numSub) : p < s.ports.length := by
  obtain ⟨⟨-, -, ⟨-, hmax⟩, -⟩, -⟩ := hs.valid (.inl hl)
  obtain ⟨hports, -⟩ := hs.shape
  omega

/-- PUSH keeps the invariant: the byte goes to an existing port whose FIFO had room (R115). -/
theorem State.Inv.pushByte (hl : s.life = .run) {p : Nat} (hp : p ≤ s.numSub) (hf : s.NotFull p) (b : Byte) :
    (s.pushByte p b).Inv := by
  have hfifo := s.pushByte_fifo p (b := b) (h := hs.port_lt hl hp)
  refine hs.of_sameConfig ⟨rfl, rfl, rfl, rfl, rfl⟩ (.inl hl) (.inl hl) rfl (by simpa [State.Shape] using hs.shape)
    (hs.cifctrBound (.inl hl)) (fun r hr => ?_) hs.outBound (fun r hr hn => ?_) (fun r hr hrep => ?_)
  · rw [hfifo]
    split
    · next heq =>
      subst heq
      simpa [State.hasSpace] using (s.hasSpace_iff r).2 hf
    · exact hs.fifoBound r hr
  · rw [hfifo, if_neg (by omega), State.pushByte_eosf]
    exact hs.unusedPorts r hr hn
  · rw [State.pushByte_resid, State.pushByte_prem] at hrep
    exact absurd hrep (hs.no_report_in_run hl hr)

/-- EOS keeps the invariant: the flag is set on an existing port (R116). -/
theorem State.Inv.setEos (hl : s.life = .run) {p : Nat} (hp : p ≤ s.numSub) : (s.setEos p).Inv := by
  refine hs.of_sameConfig ⟨rfl, rfl, rfl, rfl, rfl⟩ (.inl hl) (.inl hl) rfl (by simpa [State.Shape] using hs.shape)
    (hs.cifctrBound (.inl hl)) (fun r hr => ?_) hs.outBound (fun r hr hn => ?_) (fun r hr hrep => ?_)
  · rw [State.setEos_fifo]
    exact hs.fifoBound r hr
  · rw [State.setEos_fifo, s.setEos_eosf p r (hs.port_lt hl hp), if_neg (by omega)]
    exact hs.unusedPorts r hr hn
  · rw [State.setEos_resid, State.setEos_prem] at hrep
    exact absurd hrep (hs.no_report_in_run hl hr)

/-- EMIT keeps the invariant: the FIFOs shrink, OUT had room for the whole CIF, the pointer stays in the frame
(R135, R136). -/
theorem State.Inv.emit (hl : s.life = .run) (ha : s.AllReady) (hr : s.HasRoom) : s.emit.Inv := by
  have hcif := hs.cifctrBound (.inl hl)
  refine hs.of_sameConfig ⟨rfl, rfl, rfl, rfl, rfl⟩ (.inl hl) (.inl hl) rfl (by simpa [State.Shape] using hs.shape)
    ?_ (fun p hp => ?_) ?_ (fun p hp hn => ?_) (fun p hp hrep => ?_)
  · rw [State.emit_cifctr, State.nextCif_toNat (hs.cifsPerFrame_le (.inl hl))]
    split <;> omega
  · refine Capacity_holds_mono ?_ (hs.fifoBound p hp)
    rw [State.emit_fifo]
    split <;> simp
  · rw [State.emit_out, List.length_append, State.assembled_length ha]
    exact s.room_iff.2 hr
  · rw [State.emit_fifo, if_neg (by omega), State.emit_eosf]
    exact hs.unusedPorts p hp hn
  · rw [State.emit_resid, State.emit_prem] at hrep
    exact absurd hrep (hs.no_report_in_run hl hp)

/-- The END transition keeps the invariant: residuals are recorded for ended ports only (R137). -/
theorem State.Inv.raiseEndOfStream (hl : s.life = .run) : s.raiseEndOfStream.Inv := by
  refine hs.of_sameConfig ⟨rfl, rfl, rfl, rfl, rfl⟩ (.inl hl) (.inr rfl) rfl (by simpa [State.Shape] using hs.shape)
    (hs.cifctrBound (.inl hl)) (fun p hp => ?_) hs.outBound (fun p hp hn => ?_) (fun p hp hrep => ⟨rfl, ?_⟩)
  · refine Capacity_holds_mono ?_ (hs.fifoBound p hp)
    rw [State.raiseEndOfStream_fifo]
    split <;> simp
  · rw [State.raiseEndOfStream_fifo, if_neg (by omega), State.raiseEndOfStream_eosf]
    exact hs.unusedPorts p hp hn
  · rw [State.raiseEndOfStream_resid, State.raiseEndOfStream_prem] at hrep
    rw [State.raiseEndOfStream_eosf]
    split at hrep
    · next hended => exact hended.2
    · exact absurd hrep (hs.no_report_in_run hl hp)

/-- Taking bytes from OUT keeps the invariant (R155). -/
theorem State.Inv.dropOut {b : Byte} {rest : List Byte} (ho : s.out = b :: rest) :
    State.Inv { s with out := rest } := by
  have hconf := hs.configured_of_out (ho ▸ List.cons_ne_nil b rest)
  refine hs.of_sameConfig ⟨rfl, rfl, rfl, rfl, rfl⟩ hconf hconf rfl hs.shape (hs.cifctrBound hconf) hs.fifoBound
    (Capacity_holds_mono ?_ hs.outBound) hs.unusedPorts hs.reports
  rw [ho]
  exact Nat.le_succ _

end operations

/-- Every operation keeps the invariant of R41. -/
theorem Effect_inv {i : Instr} {s t : State} (h : Effect i s t) (hs : s.Inv) : t.Inv := by
  cases h with
  | reset => exact (State.resetWith_inv hs.admissible).withIO none s.trace
  | ignored => exact hs.silent
  | cfgMode _ m hl =>
    obtain ⟨hun, herr⟩ := hs.idle hl
    exact (State.Inv.of_idle (s := { s with mode := m }) hl hs.admissible hs.shape hun herr hs.sizesPastList).silent
  | cfgCount _ n hl =>
    obtain ⟨hun, herr⟩ := hs.idle hl
    exact (State.Inv.of_idle (s := { s with count := n }) hl hs.admissible hs.shape hun herr hs.sizesPastList).silent
  | cfgSize _ v hl => exact (hs.appendSize hl v).silent
  | commit _ hl => exact (hs.construct hl).silent
  | push _ p b hl hp _ hf => exact (hs.pushByte hl hp hf b).silent
  | eos _ p hl hp => exact (hs.setEos hl hp).silent
  | emit _ hl ha hr => exact (hs.emit hl ha hr).silent
  | endOfStream _ hl _ => exact (hs.raiseEndOfStream hl).silent
  | pop _ b rest ho => exact (hs.dropOut ho).respond (.byte b)
  | rdsr _ _ v => exact hs.respond (.word v)

/-- Settles O39: nothing has streamed in the reset state. -/
theorem resetMeetsTheInvariant : Obligations.ResetMeetsTheInvariant := by
  unfold Obligations.ResetMeetsTheInvariant
  exact ⟨fun _ hP => State.resetWith_inv hP, State.resetWith_inv (Params_admitted_admissible _)⟩

/-- Settles O40: the step performs the decoded word, and every operation keeps the invariant. -/
theorem stepKeepsTheInvariant : Obligations.StepKeepsTheInvariant := by
  unfold Obligations.StepKeepsTheInvariant
  intro s t hs h
  obtain ⟨w, rest, i, -, -, hx⟩ := step_next h
  exact Effect_inv (exec_effect hx) (hs.withIO s.response rest)

/-- Settles O41, by induction over the run from the reset state. -/
theorem runsFromResetKeepTheInvariant : Obligations.RunsFromResetKeepTheInvariant := by
  unfold Obligations.RunsFromResetKeepTheInvariant
  intro P words k t hP h
  exact run_keeps Sys2Proof.core State.Inv stepKeepsTheInvariant k _ t
    ((State.resetWith_inv hP).withIO none words) h

end Sys2Proof.Machine
end

section
/-! The state family, the lifecycle and ERR (R21, R32): which operations write them, and what the invariant says of them in
the reachable states. -/
namespace Sys2Proof.Machine

/-- What an operation does to LIFE and ERR: nothing, or RESET, or one of the transitions of R21. -/
theorem Effect_life_err {i : Instr} {s t : State} (h : Effect i s t) :
    (t.life = s.life ∧ t.err = s.err) ∨
      (i = .reset ∧ t.life = .idle ∧ t.err = 0) ∨
      (i = .cfgCommit ∧ s.life = .idle ∧ t.life = .run ∧ t.err = s.err) ∨
      (i = .cfgCommit ∧ s.life = .idle ∧ t.life = .cfgErr ∧ ∃ e : ConfigError, t.err = e.code) ∨
      (i = .asm ∧ s.life = .run ∧ t.life = .ended ∧ t.err = s.err) := by
  cases h with
  | reset => exact .inr (.inl ⟨rfl, rfl, rfl⟩)
  | commit _ hl =>
    rcases s.construct_cases with ⟨e, -, he⟩ | ⟨-, he⟩ <;> rw [he]
    · exact .inr (.inr (.inr (.inl ⟨rfl, hl, rfl, e, rfl⟩)))
    · exact .inr (.inr (.inl ⟨rfl, hl, rfl, rfl⟩))
  | endOfStream _ hl => exact .inr (.inr (.inr (.inr ⟨rfl, hl, rfl, rfl⟩)))
  | cfgSize _ v => exact .inl ⟨s.appendSize_life v, s.appendSize_err v⟩
  | _ => exact .inl ⟨rfl, rfl⟩

/-- The recorded code is never 0 (R176). -/
theorem ConfigError_code_ne_zero (e : ConfigError) : e.code ≠ 0 := by cases e <;> decide

/-- ERR in a state that meets the invariant (R41 items 1 to 3). -/
theorem State.Inv.err_iff {s : State} (h : s.Inv) : s.err ≠ 0 ↔ s.life = .cfgErr := by
  rcases s.life_cases with hl | hl | hl
  · obtain ⟨-, herr⟩ := h.idle hl
    simp [hl, herr]
  · obtain ⟨-, hpos, -⟩ := h.cfgErr hl
    simp only [hl, iff_true]
    intro h0
    simp [h0] at hpos
  · obtain ⟨-, herr⟩ := h.valid hl
    rcases hl with hl | hl <;> simp [hl, herr]

/-- ERR is a code of R176 or 0. -/
theorem State.Inv.err_le {s : State} (h : s.Inv) : s.err.toNat ≤ 5 := by
  by_cases hl : s.life = .cfgErr
  · obtain ⟨-, -, hle⟩ := h.cfgErr hl
    exact hle
  · have herr : s.err = 0 := Decidable.not_not.1 (mt h.err_iff.1 hl)
    simp [herr]

/-- Every reachable state of an admissible hardware meets the invariant. -/
theorem reachable_inv {P : Params} {s : State} {h : History} (hP : P.Admissible) (hr : Reachable P s h) : s.Inv :=
  reachable_keeps P (fun s _ => s.Inv) (State.resetWith_inv hP)
    (fun _ _ _ _ hs hx => Effect_inv (exec_effect hx) hs) s h hr

/-- Settles O43: the cases in which an operation writes LIFE. -/
theorem lifecycleTransitions : Obligations.LifecycleTransitions := by
  unfold Obligations.LifecycleTransitions
  intro i s t hx hne
  rcases Effect_life_err (exec_effect hx) with
    ⟨hlife, -⟩ | ⟨hi, hlife, -⟩ | ⟨hi, hidle, hlife, -⟩ | ⟨hi, hidle, hlife, -⟩ | ⟨hi, hrun, hlife, -⟩
  · exact absurd hlife hne
  · exact .inl ⟨hi, hlife⟩
  · exact .inr (.inl ⟨hi, hidle, .inl hlife⟩)
  · exact .inr (.inl ⟨hi, hidle, .inr hlife⟩)
  · exact .inr (.inr ⟨hi, hrun, hlife⟩)

/-- Settles O42: the cases in which an operation writes ERR, and the invariant in the reachable states. -/
theorem errorCodeIffConfigError : Obligations.ErrorCodeIffConfigError := by
  unfold Obligations.ErrorCodeIffConfigError
  refine ⟨fun i s t hs hx => ?_, fun i s t hx hne => ?_, fun P s h hP hr => ?_⟩
  · rcases Effect_life_err (exec_effect hx) with
      ⟨hlife, herr⟩ | ⟨-, hlife, herr⟩ | ⟨-, hidle, hlife, herr⟩ | ⟨-, -, hlife, e, herr⟩ | ⟨-, hrun, hlife, herr⟩
    · rw [hlife, herr]
      exact hs
    · simp [hlife, herr]
    · simpa [hlife, herr, hidle] using hs
    · exact iff_of_true (herr ▸ ConfigError_code_ne_zero e) hlife
    · simpa [hlife, herr, hrun] using hs
  · rcases Effect_life_err (exec_effect hx) with
      ⟨-, herr⟩ | ⟨hi, -, herr⟩ | ⟨-, -, -, herr⟩ | ⟨hi, hidle, hlife, e, herr⟩ | ⟨-, -, -, herr⟩
    · exact absurd herr hne
    · exact .inl ⟨hi, herr⟩
    · exact absurd herr hne
    · exact .inr ⟨hi, hidle, hlife, herr ▸ ConfigError_code_bounds e⟩
    · exact absurd herr hne
  · have hinv := reachable_inv hP hr
    refine ⟨hinv.err_iff, hinv.err_le, fun hl => ?_⟩
    obtain ⟨⟨-, hout, -⟩, -⟩ := hinv.cfgErr hl
    exact hout

end Sys2Proof.Machine
end

section
/-! The state family, RESET (R40, R165): what stands in the reset state, and which operations it holds. -/
namespace Sys2Proof.Machine

/-- Outside RUN a PUSH is held (R115). -/
theorem exec_push_notRunning {s : State} (h : s.life ≠ .run) (p : BitVec 8) (b : Byte) :
    exec (.push p b) s = .fault .heldNotRunning := if_pos h

/-- Outside RUN an EOS is held (R116). -/
theorem exec_eos_notRunning {s : State} (h : s.life ≠ .run) (p : BitVec 8) :
    exec (.eos p) s = .fault .heldNotRunning := if_pos h

/-- Outside RUN an ASM is held (R132). -/
theorem exec_asm_notRunning {s : State} (h : s.life ≠ .run) : exec .asm s = .fault .heldNotRunning := if_pos h

/-- Settles O7: RESET is `resetAll`, which leaves LIFE IDLE and OUT empty. -/
theorem resetGivesTheResetState : Obligations.ResetGivesTheResetState := by
  unfold Obligations.ResetGivesTheResetState
  intro s
  have hlife : s.resetAll.life ≠ .run := nofun
  exact ⟨s.resetAll, rfl, rfl, rfl, rfl, rfl, s.resetAll_sizeReg,
    fun p => State.fields_of_port_eq (s.resetAll_port p), rfl, rfl, rfl, rfl,
    State.resetWith_shape s.hw, rfl, rfl, rfl, rfl, exec_push_notRunning hlife, exec_eos_notRunning hlife,
    exec_asm_notRunning hlife, execPop_nil s.resetAll rfl⟩

/-- Settles O8: `State.reset` is the reset state of admitted parameters. -/
theorem resetStateHoldsTheSpecValues : Obligations.ResetStateHoldsTheSpecValues := by
  unfold Obligations.ResetStateHoldsTheSpecValues
  exact ⟨Params_admitted_admissible _, rfl, rfl, rfl, rfl, State.resetWith_sizeReg _,
    fun p => State.fields_of_port_eq (State.resetWith_port _ p), rfl, rfl, rfl, rfl, rfl, rfl⟩

end Sys2Proof.Machine
end

section
/-! The state family, the status registers (R36, R38): the value each returns, and 0 in the reset state. -/
namespace Sys2Proof.Machine

/-- A register of value `v` returns `w` if the two are equal, and changes nothing else (R166). -/
theorem respond_word_of_eq (s : State) {v w : Word} (h : v = w) :
    (Host.Outcome.next (s.respond (.word v)) : Host.Outcome State Fault Refusal) =
      .next { s with response := some (.word w) } := by
  rw [h]
  rfl

/-- The register STATE is the number of LIFE's code (R21). -/
theorem State.srState_eq (s : State) :
    s.srState = match s.life with | .idle => 0 | .run => 1 | .ended => 2 | .cfgErr => 3 := by
  cases h : s.life <;> simp [State.srState, Life.code, h]

section perPort

variable {s : State} {p : Nat}

theorem State.srCiflen_of_configured (h : s.Configured) : s.srCiflen = BitVec.ofNat 32 (s.cifLen s.cifctr.toNat) :=
  if_pos (s.configured_iff.2 h)

theorem State.srCiflen_of_not_configured (h : ¬s.Configured) : s.srCiflen = 0 := if_neg (mt s.configured_iff.1 h)

theorem State.srFramelen_of_configured (h : s.Configured) : s.srFramelen = BitVec.ofNat 32 s.frameLen :=
  if_pos (s.configured_iff.2 h)

theorem State.srFramelen_of_not_configured (h : ¬s.Configured) : s.srFramelen = 0 :=
  if_neg (mt s.configured_iff.1 h)

theorem State.srSlot_of_exists (h : s.Configured ∧ p ≤ s.numSub) : s.srSlot p = BitVec.ofNat 32 (s.slot p) :=
  if_pos ((s.portExists_iff p).2 h)

theorem State.srSlot_of_not_exists (h : ¬(s.Configured ∧ p ≤ s.numSub)) : s.srSlot p = 0 :=
  if_neg (mt (s.portExists_iff p).1 h)

/-- SIZE[p] of a subchannel, sign-extended (R38). -/
theorem State.srSize_sub (h0 : p ≠ 0) (h : p ≤ s.hw.nsubMax) :
    s.srSize p = BitVec.ofInt 32 (s.sizeReg (p - 1)).toInt := by
  rw [State.srSize, if_neg h0, if_pos h]
  rfl

/-- SIZE[0] is the FIC's size in capacity units where MODE is a mode (R38). -/
theorem State.srSize_fic (hl : s.life ≠ .idle) (hm : ∃ r ∈ s.hw.modes, r.id = s.mode) :
    s.srSize 0 = BitVec.ofNat 32 (s.hw.ficCu s.mode) := by
  rw [State.srSize, if_pos rfl, if_pos ⟨hl, (Params_isMode_iff _ _).2 hm⟩]

theorem State.srSize_fic_zero (h : s.life = .idle ∨ ∀ r ∈ s.hw.modes, r.id ≠ s.mode) : s.srSize 0 = 0 := by
  rw [State.srSize, if_pos rfl, if_neg]
  rintro ⟨hl, hm⟩
  obtain ⟨r, hr, he⟩ := (Params_isMode_iff _ _).1 hm
  rcases h with h | h
  · exact hl h
  · exact h r hr he

/-- Every per-port register but SLOT reads 0 past NSUB_MAX (R38). -/
theorem State.perPort_past_max (h : s.hw.nsubMax < p) :
    s.srLvl p = 0 ∧ s.srResid p = 0 ∧ s.srPflags p = 0 ∧ s.srSize p = 0 := by
  have hp : ¬p ≤ s.hw.nsubMax := Nat.not_le.2 h
  exact ⟨if_neg hp, if_neg hp, if_neg hp, by rw [State.srSize, if_neg (by omega), if_neg hp]⟩

end perPort

/-- Settles O35: each register by its value column. -/
theorem globalRegistersRead : Obligations.GlobalRegistersRead := by
  unfold Obligations.GlobalRegistersRead
  intro s
  have zeroExt : ∀ {n : Nat} (x : BitVec n), x.setWidth 32 = BitVec.ofNat 32 x.toNat := fun x =>
    (BitVec.ofNat_toNat 32 x).symm
  refine ⟨respond_word_of_eq s s.srState_eq, respond_word_of_eq s (zeroExt s.err),
    respond_word_of_eq s (zeroExt s.mode), respond_word_of_eq s (zeroExt s.count),
    respond_word_of_eq s (zeroExt s.listLen), respond_word_of_eq s (zeroExt s.cifctr),
    respond_word_of_eq s rfl, respond_word_of_eq s rfl, fun hc => ⟨?_, ?_⟩, fun hc => ⟨?_, ?_⟩⟩
  · exact respond_word_of_eq s (State.srCiflen_of_configured hc)
  · exact respond_word_of_eq s (State.srFramelen_of_configured hc)
  · exact respond_word_of_eq s (State.srCiflen_of_not_configured hc)
  · exact respond_word_of_eq s (State.srFramelen_of_not_configured hc)

/-- Settles O36: each register by its value column, case by case of the port operand. -/
theorem portRegistersRead : Obligations.PortRegistersRead := by
  unfold Obligations.PortRegistersRead
  intro s p
  refine ⟨fun hp => ⟨respond_word_of_eq s (if_pos hp), respond_word_of_eq s (if_pos hp)⟩, fun hp => ?_,
    fun hc hp => respond_word_of_eq s (State.srSlot_of_exists ⟨hc, hp⟩),
    fun hn => respond_word_of_eq s (State.srSlot_of_not_exists hn),
    fun h0 hp => respond_word_of_eq s (State.srSize_sub h0 hp), fun h0 hl hm => ?_, fun h0 h => ?_⟩
  · obtain ⟨hlvl, hresid, hpflags, hsize⟩ := State.perPort_past_max hp
    exact ⟨respond_word_of_eq s hlvl, respond_word_of_eq s hresid, respond_word_of_eq s hpflags,
      respond_word_of_eq s hsize⟩
  · exact respond_word_of_eq s (h0 ▸ State.srSize_fic hl hm)
  · exact respond_word_of_eq s (h0 ▸ State.srSize_fic_zero h)

/-- OUT_EOS (R35). -/
theorem State.outEos_iff (s : State) : s.outEos = true ↔ s.life = .ended ∧ s.out = [] := by simp [State.outEos]

/-- OUT_VALID (R35). -/
theorem State.outValid_iff (s : State) : s.outValid = true ↔ s.out ≠ [] := by simp [State.outValid]

/-- Settles O37: bit by bit, each by what its flag says. -/
theorem statusWordBits : Obligations.StatusWordBits := by
  unfold Obligations.StatusWordBits
  intro s
  refine ⟨s.statusWord, rfl, ?_⟩
  simp only [s.statusWord_getLsbD]
  refine ⟨s.configured_iff, beq_iff_eq, beq_iff_eq, s.outEos_iff, s.stalled_iff, s.outBlocked_iff,
    s.prematureAny_iff, s.outValid_iff, fun k hk => ?_⟩
  simp (disch := omega) only [if_neg]

/-- Settles O38: bit by bit, each by what its flag says. -/
theorem portFlagsBits : Obligations.PortFlagsBits := by
  unfold Obligations.PortFlagsBits
  intro s p hp
  refine ⟨s.pflagsWord p.toNat, rfl, ?_⟩
  simp only [s.pflagsWord_getLsbD p.toNat _ hp]
  refine ⟨s.portExists_iff p.toNat, Iff.rfl, s.starved_iff p.toNat, Iff.rfl, fun k hk => ?_⟩
  simp (disch := omega) only [if_neg]

end Sys2Proof.Machine
end

section
/-! The state family, RDSR in the reset state (R38, R40): every register reads 0. -/
namespace Sys2Proof.Machine

section registers

variable (P : Params)

theorem State.resetWith_not_configured : ¬(State.resetWith P).Configured := by simp [State.Configured]

/-- In the reset state every flag of STATUS is clear (R35, R40). -/
theorem State.resetWith_statusWord : (State.resetWith P).statusWord = 0 := by
  have hprem : (State.resetWith P).prematureAny = false := by
    rw [← Bool.not_eq_true, State.prematureAny_iff]
    rintro ⟨p, hp⟩
    obtain ⟨-, -, -, hclear⟩ := State.fields_of_port_eq (State.resetWith_port P p)
    rw [hclear] at hp
    cases hp
  have hconf : (State.resetWith P).configured = false := rfl
  have herr : (State.resetWith P).cfgError = false := rfl
  have hend : (State.resetWith P).hasEnded = false := rfl
  have heos : (State.resetWith P).outEos = false := rfl
  have hstall : (State.resetWith P).stalled = false := rfl
  have hblock : (State.resetWith P).outBlocked = false := rfl
  have hvalid : (State.resetWith P).outValid = false := rfl
  refine BitVec.eq_of_getLsbD_eq fun k _ => Eq.trans ?_ BitVec.getLsbD_zero.symm
  simp only [State.statusWord_getLsbD, hprem, hconf, herr, hend, heos, hstall, hblock, hvalid, ite_self]

/-- In the reset state every flag of PFLAGS is clear, at every port number (R38, R40). -/
theorem State.resetWith_pflagsWord (p : Nat) : (State.resetWith P).pflagsWord p = 0 := by
  obtain ⟨-, heosf, -, hprem⟩ := State.fields_of_port_eq (State.resetWith_port P p)
  have hexists : (State.resetWith P).portExists p = false := rfl
  have hstarved : (State.resetWith P).starved p = false := rfl
  by_cases hp : p ≤ (State.resetWith P).hw.nsubMax
  · refine BitVec.eq_of_getLsbD_eq fun k _ => Eq.trans ?_ BitVec.getLsbD_zero.symm
    simp only [State.pflagsWord_getLsbD _ p k hp, hexists, heosf, hstarved, hprem, ite_self]
  · exact if_neg hp

theorem State.resetWith_srLvl (p : Nat) : (State.resetWith P).srLvl p = 0 := by
  obtain ⟨hfifo, -⟩ := State.fields_of_port_eq (State.resetWith_port P p)
  rw [State.srLvl, hfifo, ite_eq_right_iff]
  exact fun _ => rfl

theorem State.resetWith_srResid (p : Nat) : (State.resetWith P).srResid p = 0 := by
  obtain ⟨-, -, hresid, -⟩ := State.fields_of_port_eq (State.resetWith_port P p)
  rw [State.srResid, hresid, ite_self]

/-- In the reset state every SIZE register reads 0: LIFE is IDLE and the size list is empty (R38, R40). -/
theorem State.resetWith_srSize (p : Nat) : (State.resetWith P).srSize p = 0 := by
  rw [State.srSize, State.resetWith_sizeReg]
  split
  · exact if_neg fun h => h.1 rfl
  · split <;> rfl

theorem State.resetWith_srSlot (p : Nat) : (State.resetWith P).srSlot p = 0 :=
  State.srSlot_of_not_exists fun h => State.resetWith_not_configured P h.1

end registers

/-- Settles O9: register by register. -/
theorem resetStateReadsZero : Obligations.ResetStateReadsZero := by
  unfold Obligations.ResetStateReadsZero
  intro P i hi
  cases i with
  | rdsrState | rdsrErr | rdsrMode | rdsrCount | rdsrListlen | rdsrCifctr | rdsrFrmctr | rdsrOutlvl => rfl
  | rdsrStatus => exact respond_word_of_eq _ (State.resetWith_statusWord P)
  | rdsrCiflen => exact respond_word_of_eq _ (State.srCiflen_of_not_configured (State.resetWith_not_configured P))
  | rdsrFramelen => exact respond_word_of_eq _ (State.srFramelen_of_not_configured (State.resetWith_not_configured P))
  | rdsrLvl p => exact respond_word_of_eq _ (State.resetWith_srLvl P p.toNat)
  | rdsrSlot p => exact respond_word_of_eq _ (State.resetWith_srSlot P p.toNat)
  | rdsrPflags p => exact respond_word_of_eq _ (State.resetWith_pflagsWord P p.toNat)
  | rdsrResid p => exact respond_word_of_eq _ (State.resetWith_srResid P p.toNat)
  | rdsrSize p => exact respond_word_of_eq _ (State.resetWith_srSize P p.toNat)
  | _ => cases hi

end Sys2Proof.Machine
end

section
/-! The state family, FRMCTR (R31): an operation on a state with another frame counter does the same to everything else. -/
namespace Sys2Proof.Machine

/-- `s` with FRMCTR at `f`. -/
def State.withFrmctr (f : BitVec 32) (s : State) : State := { s with frmctr := f }

/-- The two branches of a configuration operation, in IDLE and outside, each up to FRMCTR (R100). -/
theorem mapNext_ite_life {s a b a' b' : State} {f : BitVec 32} (ha : a' = a.withFrmctr f) (hb : b' = b.withFrmctr f) :
    (Host.Outcome.next (if s.life = .idle then a' else b') : Host.Outcome State Fault Refusal) =
      mapNext (State.withFrmctr f) (.next (if s.life = .idle then a else b)) := by
  subst ha hb
  split <;> rfl

theorem State.appendSize_withFrmctr (s : State) (v : BitVec 16) (f : BitVec 32) :
    (s.withFrmctr f).appendSize v = (s.appendSize v).withFrmctr f := by
  unfold State.appendSize
  split
  · next h => rw [if_pos (show s.listLen.toNat < s.hw.nsubMax from h)]; rfl
  · next h => rw [if_neg (show ¬s.listLen.toNat < s.hw.nsubMax from h)]; rfl

theorem State.construct_withFrmctr (s : State) (f : BitVec 32) :
    (s.withFrmctr f).construct = s.construct.withFrmctr f := by
  have hcheck : (s.withFrmctr f).configFailure = s.configFailure := rfl
  rw [State.construct, State.construct, hcheck]
  cases s.configFailure <;> rfl

theorem execPush_ignores_frmctr (s : State) (p : BitVec 8) (b : Byte) (f : BitVec 32) :
    execPush p b (s.withFrmctr f) = mapNext (State.withFrmctr f) (execPush p b s) := by
  simp only [execPush, apply_ite (mapNext (State.withFrmctr f))]
  rfl

theorem execEos_ignores_frmctr (s : State) (p : BitVec 8) (f : BitVec 32) :
    execEos p (s.withFrmctr f) = mapNext (State.withFrmctr f) (execEos p s) := by
  simp only [execEos, apply_ite (mapNext (State.withFrmctr f))]
  rfl

/-- ASM decides its outcome without FRMCTR, and only its EMIT writes it (R131, R136). -/
theorem execAsm_ignores_frmctr (s : State) (f : BitVec 32) :
    ∃ g, execAsm (s.withFrmctr f) = mapNext (State.withFrmctr g) (execAsm s) := by
  have houtcome : (s.withFrmctr f).asmOutcome = s.asmOutcome := rfl
  have hlife : (s.withFrmctr f).life = s.life := rfl
  by_cases hl : s.life = .run
  · simp only [execAsm, hlife, houtcome, hl, ne_eq, not_true_eq_false, if_false]
    cases s.asmOutcome with
    | emit => exact ⟨(s.withFrmctr f).nextFrame, rfl⟩
    | endOfStream => exact ⟨f, rfl⟩
    | stall => exact ⟨f, rfl⟩
  · exact ⟨f, by rw [execAsm, execAsm, hlife, if_pos hl, if_pos hl]; rfl⟩

theorem execPop_ignores_frmctr (s : State) (f : BitVec 32) :
    execPop (s.withFrmctr f) = mapNext (State.withFrmctr f) (execPop s) := by
  cases ho : s.out with
  | nil => rw [execPop_nil (s.withFrmctr f) ho, execPop_nil s ho]; rfl
  | cons b rest => rw [execPop_cons (s.withFrmctr f) b rest ho, execPop_cons s b rest ho]; rfl

/-- No operation but RDSR FRMCTR depends on FRMCTR (R31). -/
theorem exec_ignores_frmctr {i : Instr} (hi : i ≠ .rdsrFrmctr) (s : State) (f : BitVec 32) :
    ∃ g, exec i (s.withFrmctr f) = mapNext (State.withFrmctr g) (exec i s) := by
  cases i with
  | reset => exact ⟨0, rfl⟩
  | cfgMode m => exact ⟨f, mapNext_ite_life rfl rfl⟩
  | cfgCount n => exact ⟨f, mapNext_ite_life rfl rfl⟩
  | cfgSize v => exact ⟨f, mapNext_ite_life (congrArg State.silent (s.appendSize_withFrmctr v f)) rfl⟩
  | cfgCommit => exact ⟨f, mapNext_ite_life (congrArg State.silent (s.construct_withFrmctr f)) rfl⟩
  | push p b => exact ⟨f, execPush_ignores_frmctr s p b f⟩
  | eos p => exact ⟨f, execEos_ignores_frmctr s p f⟩
  | asm => exact execAsm_ignores_frmctr s f
  | pop => exact ⟨f, execPop_ignores_frmctr s f⟩
  | rdsrFrmctr => exact absurd rfl hi
  | _ => exact ⟨f, rfl⟩

/-- Settles O56: RDSR FRMCTR returns another value, every other operation the same. -/
theorem frameCounterIsUnused : Obligations.FrameCounterIsUnused := by
  unfold Obligations.FrameCounterIsUnused
  intro i s f
  by_cases hi : i = .rdsrFrmctr
  · subst hi
    refine ⟨fun t hx => ?_, fun r hx => nomatch hx⟩
    obtain rfl := Host.Outcome.next.inj hx
    exact ⟨_, rfl, rfl, fun hne => absurd rfl hne⟩
  · obtain ⟨g, hg⟩ := exec_ignores_frmctr hi s f
    refine ⟨fun t hx => ?_, fun r hx => ?_⟩ <;> rw [hx] at hg
    · exact ⟨t.withFrmctr g, hg, rfl, fun _ => rfl⟩
    · exact hg

end Sys2Proof.Machine
end

section
/-! The state family, the length of the output (R41 item 8, R142): the counters and the number of bytes output follow the
number of EMITs, by an invariant of the reachable states and their histories. -/
namespace Sys2Proof.Machine

section division

variable {e n : Nat} (hn : 0 < n)
include hn

/-- Within a frame the next EMIT stays in it. -/
theorem succ_div_mod_of_lt (h : e % n + 1 < n) : (e + 1) / n = e / n ∧ (e + 1) % n = e % n + 1 :=
  (Nat.div_mod_unique hn).2 ⟨by have := Nat.mod_add_div e n; omega, h⟩

/-- After the last CIF of a frame comes the first one of the next. -/
theorem succ_div_mod_of_not_lt (h : ¬e % n + 1 < n) : (e + 1) / n = e / n + 1 ∧ (e + 1) % n = 0 := by
  have hlt := Nat.mod_lt e hn
  have hsum := Nat.mod_add_div e n
  exact (Nat.div_mod_unique hn).2 ⟨by rw [Nat.mul_succ]; omega, hn⟩

end division

section frames

variable (s : State)

/-- The first `r` CIFs of the output are the first `r` of a frame, as long as they are in one frame. -/
theorem State.cifStart_of_le {r : Nat} (h : r ≤ s.cifsPerFrame) :
    s.cifStart r = ((List.range r).map (fun c => s.cifLen c)).sum := by
  refine congrArg List.sum (List.map_congr_left fun c hc => ?_)
  rw [Nat.mod_eq_of_lt (Nat.lt_of_lt_of_le (List.mem_range.1 hc) h)]

/-- A frame later the output is a frame longer (R142). -/
theorem State.cifStart_add_frame (j : Nat) : s.cifStart (s.cifsPerFrame + j) = s.frameLen + s.cifStart j := by
  induction j with
  | zero => exact s.cifStart_of_le (Nat.le_refl _)
  | succ j ih => rw [← Nat.add_assoc, s.cifStart_succ, ih, s.cifStart_succ, Nat.add_mod_left, Nat.add_assoc]

/-- The length of whole frames and some CIFs of the next (R142). -/
theorem State.cifStart_frames (k r : Nat) : s.cifStart (k * s.cifsPerFrame + r) = k * s.frameLen + s.cifStart r := by
  induction k with
  | zero => simp
  | succ k ih =>
    rw [Nat.succ_mul, Nat.add_comm (k * s.cifsPerFrame), Nat.add_assoc, s.cifStart_add_frame, ih, Nat.succ_mul]
    omega

end frames

/-- The counters and the length of the output, popped and still in OUT, are those of the number of EMITs; before a
commit there are none. -/
structure Counted (h : History) (s : State) : Prop where
  fresh : ¬s.Configured → h.emits = 0 ∧ h.popped = []
  cifctr : s.cifctr.toNat = h.emits % s.cifsPerFrame
  frmctr : s.frmctr = BitVec.ofNat 32 (h.emits / s.cifsPerFrame)
  output : (h.popped ++ s.out).length = s.cifStart h.emits

/-- A configuration operation leaves the history (R59). -/
theorem History.after_cfg {i : Instr} (hi : isCfg i = true) (h : History) (s t : State) : h.after i s t = h := by
  cases i with
  | cfgMode | cfgCount | cfgSize | cfgCommit => rfl
  | _ => cases hi

/-- RDSR leaves the history (R166). -/
theorem History.after_rdsr {i : Instr} (hi : isRdsr i = true) (h : History) (s t : State) : h.after i s t = h := by
  cases i with
  | reset | cfgMode | cfgCount | cfgSize | cfgCommit | push | eos | asm | pop => cases hi
  | _ => rfl

namespace Counted

variable {h : History} {s t : State}

/-- The counts do not depend on the model's own field `response`. -/
theorem withResponse (hc : Counted h s) (r : Option Response) : Counted h { s with response := r } :=
  ⟨hc.fresh, hc.cifctr, hc.frmctr, hc.output⟩

/-- Where nothing has streamed every count is 0, whatever the configuration registers hold. -/
theorem of_unstreamed (hun : s.Unstreamed) (he : h.emits = 0) (hp : h.popped = []) : Counted h s := by
  obtain ⟨-, hout, hcif, hfrm⟩ := hun
  exact ⟨fun _ => ⟨he, hp⟩, by simp [hcif, he], by simp [hfrm, he], by simp [hp, hout, he, State.cifStart_zero]⟩

/-- An operation of a configured state that emits nothing keeps the counts. -/
theorem of_sameConfig {h' : History} (hc : Counted h s) (hcfg : SameConfig s t) (ht : t.Configured)
    (hemits : h'.emits = h.emits) (hcif : t.cifctr = s.cifctr) (hfrm : t.frmctr = s.frmctr)
    (hout : h'.popped ++ t.out = h.popped ++ s.out) : Counted h' t := by
  refine ⟨fun hn => absurd ht hn, ?_, ?_, ?_⟩
  · rw [hcif, hemits, State.cifsPerFrame_congr hcfg, hc.cifctr]
  · rw [hfrm, hemits, State.cifsPerFrame_congr hcfg, hc.frmctr]
  · rw [hout, hemits, State.cifStart_congr hcfg, hc.output]

/-- EMIT: the output grows by the CIF with index CIFCTR and the counters by one CIF (R135, R136). -/
theorem emit (hc : Counted h s) (hs : s.Inv) (hl : s.life = .run) (ha : s.AllReady) :
    Counted { h with emits := h.emits + 1 } s.emit := by
  have hcfg : SameConfig s s.emit := ⟨rfl, rfl, rfl, rfl, rfl⟩
  have hpos : 0 < s.cifsPerFrame := Nat.zero_lt_of_lt (hs.cifctrBound (.inl hl))
  refine ⟨fun hn => absurd (.inl hl) hn, ?_, ?_, ?_⟩
  · rw [State.emit_cifctr, State.nextCif_toNat (hs.cifsPerFrame_le (.inl hl)), hc.cifctr, State.emit_cifsPerFrame]
    split
    · next hlt => exact (succ_div_mod_of_lt hpos hlt).2.symm
    · next hge => exact (succ_div_mod_of_not_lt hpos hge).2.symm
  · rw [State.emit_frmctr, State.nextFrame, hc.cifctr, hc.frmctr, State.emit_cifsPerFrame]
    split
    · next hlt => rw [(succ_div_mod_of_lt hpos hlt).1]
    · next hge =>
      rw [(succ_div_mod_of_not_lt hpos hge).1, BitVec.ofNat_add]
      rfl
  · rw [State.cifStart_congr hcfg, State.cifStart_succ, ← hc.output, ← hc.cifctr, State.emit_out,
      ← State.assembled_length ha, ← List.append_assoc, List.length_append]

end Counted

/-- Every operation keeps the counts. -/
theorem Effect_counted {i : Instr} {s t : State} {h : History} (hx : Effect i s t) (hs : s.Inv)
    (hc : Counted h s) : Counted (h.after i s t) t := by
  have hidle : s.life = .idle → s.Unstreamed ∧ h.emits = 0 ∧ h.popped = [] := fun hl =>
    ⟨(hs.idle hl).1, hc.fresh (by simp [State.Configured, hl])⟩
  cases hx with
  | reset => exact .of_unstreamed (State.resetWith_unstreamed _) rfl rfl
  | ignored _ _ hi =>
    rw [History.after_cfg hi]
    exact hc.withResponse none
  | cfgMode _ _ hl | cfgCount _ _ hl =>
    obtain ⟨hun, he, hp⟩ := hidle hl
    exact .of_unstreamed hun he hp
  | cfgSize _ _ hl =>
    obtain ⟨hun, he, hp⟩ := hidle hl
    exact .of_unstreamed (by simpa [State.Unstreamed] using hun) he hp
  | commit _ hl =>
    obtain ⟨hun, he, hp⟩ := hidle hl
    exact .of_unstreamed (by simpa [State.Unstreamed] using hun) he hp
  | push _ _ _ hl => exact hc.of_sameConfig ⟨rfl, rfl, rfl, rfl, rfl⟩ (.inl hl) rfl rfl rfl rfl
  | eos _ _ hl => exact hc.of_sameConfig ⟨rfl, rfl, rfl, rfl, rfl⟩ (.inl hl) rfl rfl rfl rfl
  | emit _ hl ha =>
    have hafter : h.after .asm s s.emit.silent = { h with emits := h.emits + 1 } := if_pos hl
    rw [hafter]
    exact (hc.emit hs hl ha).withResponse none
  | endOfStream _ hl => exact hc.of_sameConfig ⟨rfl, rfl, rfl, rfl, rfl⟩ (.inr rfl) rfl rfl rfl rfl
  | pop _ b rest ho =>
    have hconf := hs.configured_of_out (ho ▸ List.cons_ne_nil b rest)
    have hmoved : (h.popped ++ [b]) ++ rest = h.popped ++ s.out := by rw [ho, List.append_assoc]; rfl
    exact hc.of_sameConfig ⟨rfl, rfl, rfl, rfl, rfl⟩ hconf rfl rfl rfl hmoved
  | rdsr _ _ v hi =>
    rw [History.after_rdsr hi]
    exact hc.withResponse (some (.word v))

/-- Every reachable state of an admissible hardware is counted by its history. -/
theorem reachable_counted {P : Params} {s : State} {h : History} (hP : P.Admissible) (hr : Reachable P s h) :
    Counted h s := by
  have hreset : Counted History.empty (State.resetWith P) := .of_unstreamed (State.resetWith_unstreamed P) rfl rfl
  have hboth := reachable_keeps P (fun s h => s.Inv ∧ Counted h s) ⟨State.resetWith_inv hP, hreset⟩
    (fun i s t h ⟨hs, hc⟩ hx => ⟨Effect_inv (exec_effect hx) hs, Effect_counted (exec_effect hx) hs hc⟩)
  exact (hboth s h hr).2

/-- Settles O51: the number of whole frames is the number of EMITs divided by the CIFs per frame. -/
theorem outputLengthInFrames : Obligations.OutputLengthInFrames := by
  unfold Obligations.OutputLengthInFrames
  intro P s h hP hr hconf
  have hbound := (reachable_inv hP hr).cifctrBound hconf
  obtain ⟨-, hcif, hfrm, hout⟩ := reachable_counted hP hr
  have hemits : h.emits = h.emits / s.cifsPerFrame * s.cifsPerFrame + s.cifctr.toNat := by
    rw [hcif, Nat.div_add_mod']
  refine ⟨h.emits / s.cifsPerFrame, hfrm, hemits, ?_⟩
  rw [hout, ← s.cifStart_of_le (Nat.le_of_lt hbound), ← s.cifStart_frames, ← hemits]

end Sys2Proof.Machine
end

section
/-! The memory family (spec/20_memory.md), the order of operations (R62): a step performs the next word of the trace, and
which operations commute. -/
namespace Sys2Proof.Machine

/-- Settles O5: the fetch takes the word off the trace, and its instruction is performed on what is left. -/
theorem stepPerformsTheDecodedWord : Obligations.StepPerformsTheDecodedWord := by
  unfold Obligations.StepPerformsTheDecodedWord
  intro s w rest i htrace hdecode
  have hfetch : s.fetch = some (w, { s with trace := rest }) := by rw [State.fetch, htrace]
  simp only [step, hfetch, hdecode]

/-- Bytes pushed on two ports stand in the same FIFOs whichever came first (R62 item 2). -/
theorem State.pushByte_comm (s : State) {p q : Nat} (h : p ≠ q) (a b : Byte) :
    (s.pushByte p a).pushByte q b = (s.pushByte q b).pushByte p a := by
  have hq := s.pushByte_port_ne p q a h.symm
  have hp := s.pushByte_port_ne q p b h
  simp only [State.pushByte, State.fifo, State.setPort] at hp hq ⊢
  rw [hp, hq, List.set_comm _ _ h]

/-- A PUSH leaves a PUSH on another port enabled (R115, R62 item 2). -/
theorem State.notFull_pushByte_ne {s : State} {p q : Nat} (h : q ≠ p) (b : Byte) :
    (s.pushByte p b).NotFull q ↔ s.NotFull q := by
  simp only [State.NotFull, State.pushByte_capOf, State.fifo, s.pushByte_port_ne p q b h]

/-- Settles O19: each PUSH writes one port, and no PUSH disables one on another port. -/
theorem pushesOnDifferentPortsCommute : Obligations.PushesOnDifferentPortsCommute := by
  unfold Obligations.PushesOnDifferentPortsCommute
  intro s t u p q a b hne hp hq
  have hpq : p.toNat ≠ q.toNat := fun h => hne (BitVec.eq_of_toNat_eq h)
  obtain ⟨hl, hpN, hpe, hpf, rfl⟩ := execPush_next hp
  obtain ⟨-, hqN, hqe, hqf, rfl⟩ := execPush_next hq
  have hqe' : s.eosf q.toNat = false := (s.pushByte_eosf p.toNat q.toNat a).symm.trans hqe
  have hqf' : s.NotFull q.toNat := (State.notFull_pushByte_ne hpq.symm a).1 hqf
  have hpe' : (s.pushByte q.toNat b).eosf p.toNat = false := (s.pushByte_eosf q.toNat p.toNat b).trans hpe
  have hpf' : (s.pushByte q.toNat b).NotFull p.toNat := (State.notFull_pushByte_ne hpq b).2 hpf
  refine ⟨_, execPush_enabled q b s hl hqN hqe' hqf', ?_⟩
  refine (execPush_enabled p a (s.pushByte q.toNat b).silent hl hpN hpe' hpf').trans ?_
  exact congrArg (fun v => Host.Outcome.next v.silent) (s.pushByte_comm hpq a b).symm

/-- POP has a step only when OUT has a head byte (R155). -/
theorem execPop_next {s t : State} (h : execPop s = .next t) :
    ∃ b rest, s.out = b :: rest ∧ t = { s with out := rest }.respond (.byte b) := by
  cases ho : s.out with
  | nil => rw [execPop_nil s ho] at h; cases h
  | cons b rest =>
    rw [execPop_cons s b rest ho] at h
    exact ⟨b, rest, rfl, (Host.Outcome.next.inj h).symm⟩

/-- Settles O20: PUSH neither reads nor writes OUT, and POP nothing but OUT. -/
theorem pushAndPopCommute : Obligations.PushAndPopCommute := by
  unfold Obligations.PushAndPopCommute
  intro s p a
  constructor
  · intro t u hpush hpop
    obtain ⟨hl, hp, he, hf, rfl⟩ := execPush_next hpush
    obtain ⟨b, rest, ho, rfl⟩ := execPop_next hpop
    exact ⟨_, _, execPop_cons s b rest ho, execPush_enabled p a _ hl hp he hf, rfl, rfl⟩
  · intro t u hpop hpush
    obtain ⟨b, rest, ho, rfl⟩ := execPop_next hpop
    obtain ⟨hl, hp, he, hf, rfl⟩ := execPush_next hpush
    exact ⟨_, _, execPush_enabled p a s hl hp he hf,
      execPop_cons (s.pushByte p.toNat a).silent b rest ho, rfl, rfl⟩

end Sys2Proof.Machine
end

section
/-! The memory family, the bytes are opaque (R50, R140): one map on the data bytes commutes with every accessor, every
update and so with every operation. -/
namespace Sys2Proof.Machine

/-- Applying a map to the bytes a port's FIFO holds. -/
def Port.mapBytes (f : Byte → Byte) (q : Port) : Port := { q with fifo := q.fifo.map f }

section accessors

variable (f : Byte → Byte) (s : State)

@[simp] theorem State.mapBytes_hw : (s.mapBytes f).hw = s.hw := rfl
@[simp] theorem State.mapBytes_life : (s.mapBytes f).life = s.life := rfl
@[simp] theorem State.mapBytes_ports : (s.mapBytes f).ports = s.ports.map (Port.mapBytes f) := rfl
@[simp] theorem State.mapBytes_out : (s.mapBytes f).out = s.out.map f := rfl
@[simp] theorem State.mapBytes_cifctr : (s.mapBytes f).cifctr = s.cifctr := rfl
@[simp] theorem State.mapBytes_numSub : (s.mapBytes f).numSub = s.numSub := rfl
@[simp] theorem State.mapBytes_portNumbers : (s.mapBytes f).portNumbers = s.portNumbers := rfl
@[simp] theorem State.mapBytes_capOf (p : Nat) : (s.mapBytes f).capOf p = s.capOf p := rfl
@[simp] theorem State.mapBytes_slot (p : Nat) : (s.mapBytes f).slot p = s.slot p := rfl
@[simp] theorem State.mapBytes_need (p c : Nat) : (s.mapBytes f).need p c = s.need p c := rfl
@[simp] theorem State.mapBytes_cifLen (c : Nat) : (s.mapBytes f).cifLen c = s.cifLen c := rfl

@[simp] theorem State.mapBytes_port (p : Nat) : (s.mapBytes f).port p = (s.port p).mapBytes f := by
  simp only [State.port, State.mapBytes_ports, List.getD_eq_getElem?_getD, List.getElem?_map]
  cases s.ports[p]? <;> rfl

@[simp] theorem State.mapBytes_fifo (p : Nat) : (s.mapBytes f).fifo p = (s.fifo p).map f :=
  congrArg Port.fifo (s.mapBytes_port f p)

@[simp] theorem State.mapBytes_eosf (p : Nat) : (s.mapBytes f).eosf p = s.eosf p := by
  rw [State.eosf, State.mapBytes_port]
  rfl

@[simp] theorem State.mapBytes_resid (p : Nat) : (s.mapBytes f).resid p = s.resid p := by
  rw [State.resid, State.mapBytes_port]
  rfl

@[simp] theorem State.mapBytes_prem (p : Nat) : (s.mapBytes f).prem p = s.prem p := by
  rw [State.prem, State.mapBytes_port]
  rfl

end accessors

section predicates

variable (f : Byte → Byte) (s : State)

/-- Whether a port is starved depends on the length of its FIFO only (R128). -/
@[simp] theorem State.mapBytes_starved (p : Nat) : (s.mapBytes f).starved p = s.starved p := by
  simp only [State.starved, State.mapBytes_fifo, List.length_map]
  rfl

@[simp] theorem State.mapBytes_availAll : (s.mapBytes f).availAll = s.availAll := by simp [State.availAll]

@[simp] theorem State.mapBytes_room : (s.mapBytes f).room = s.room := by simp [State.room]

@[simp] theorem State.mapBytes_endCond : (s.mapBytes f).endCond = s.endCond := by simp [State.endCond]

@[simp] theorem State.mapBytes_hasSpace (p : Nat) : (s.mapBytes f).hasSpace p = s.hasSpace p := by
  simp [State.hasSpace]

/-- The outcome of ASM is decided by lengths and flags (R131). -/
@[simp] theorem State.mapBytes_asmOutcome : (s.mapBytes f).asmOutcome = s.asmOutcome := by simp [State.asmOutcome]

theorem State.mapBytes_statusWord : (s.mapBytes f).statusWord = s.statusWord := by
  have hprem : (s.mapBytes f).prematureAny = s.prematureAny := by
    simp only [State.prematureAny, State.mapBytes_ports, List.any_map]
    rfl
  simp [State.statusWord, State.outValid, State.outBlocked, State.stalled, State.outEos, State.hasEnded,
    State.cfgError, State.configured, hprem]

theorem State.mapBytes_pflagsWord (p : Nat) : (s.mapBytes f).pflagsWord p = s.pflagsWord p := by
  simp only [State.pflagsWord, State.mapBytes_prem, State.mapBytes_starved, State.mapBytes_eosf]
  rfl

end predicates

section updates

variable (f : Byte → Byte) (s : State)

theorem State.setPort_mapBytes (p : Nat) (q : Port) :
    (s.mapBytes f).setPort p (q.mapBytes f) = (s.setPort p q).mapBytes f := by
  simp only [State.setPort, State.mapBytes_ports, ← List.map_set]
  rfl

/-- Changing every port by a function that does not look inside a byte. -/
theorem State.mapPorts_mapBytes {g g' : Nat → Port → Port} (h : ∀ p q, g' p (q.mapBytes f) = (g p q).mapBytes f) :
    (s.mapBytes f).mapPorts g' = (s.mapPorts g).mapBytes f := by
  have hports : (s.ports.map (Port.mapBytes f)).mapIdx g' = (s.ports.mapIdx g).map (Port.mapBytes f) := by
    refine List.ext_getElem? fun p => ?_
    cases hp : s.ports[p]? <;> simp [hp, h]
  simp only [State.mapPorts, State.mapBytes_ports, hports]
  rfl

theorem State.pushByte_mapBytes (p : Nat) (b : Byte) :
    (s.mapBytes f).pushByte p (f b) = (s.pushByte p b).mapBytes f := by
  rw [State.pushByte, State.pushByte, ← s.setPort_mapBytes f p]
  simp [Port.mapBytes, memWrite]

theorem State.setEos_mapBytes (p : Nat) : (s.mapBytes f).setEos p = (s.setEos p).mapBytes f := by
  rw [State.setEos, State.setEos, ← s.setPort_mapBytes f p, State.mapBytes_port]
  rfl

theorem State.drainPort_mapBytes (c p : Nat) (q : Port) :
    (s.mapBytes f).drainPort c p (q.mapBytes f) = (s.drainPort c p q).mapBytes f := by
  by_cases hp : p ≤ s.numSub
  · rw [State.drainPort, State.drainPort, if_pos hp, if_pos (show p ≤ (s.mapBytes f).numSub from hp)]
    simp [Port.mapBytes, memRead]
  · rw [State.drainPort, State.drainPort, if_neg hp, if_neg (show ¬p ≤ (s.mapBytes f).numSub from hp)]

/-- The CIF assembled from mapped bytes is the mapped CIF (R134, R140). -/
theorem State.assembled_mapBytes (c : Nat) : (s.mapBytes f).assembled c = (s.assembled c).map f := by
  simp [State.assembled, State.slice, memRead, List.map_flatMap]

theorem State.emit_mapBytes : (s.mapBytes f).emit = s.emit.mapBytes f := by
  have hports := s.mapPorts_mapBytes f (s.drainPort_mapBytes f s.cifctr.toNat)
  have hout : memWrite (s.mapBytes f).out ((s.mapBytes f).assembled s.cifctr.toNat) =
      (memWrite s.out (s.assembled s.cifctr.toNat)).map f := by
    simp [memWrite, s.assembled_mapBytes]
  simp only [State.emit, State.mapBytes_cifctr, hports, hout]
  rfl

theorem State.endPort_mapBytes (p : Nat) (q : Port) :
    (s.mapBytes f).endPort p (q.mapBytes f) = (s.endPort p q).mapBytes f := by
  have hcond : (p ≤ (s.mapBytes f).numSub ∧ (q.mapBytes f).eosf = true) ↔ p ≤ s.numSub ∧ q.eosf = true :=
    Iff.rfl
  by_cases h : p ≤ s.numSub ∧ q.eosf = true
  · rw [State.endPort, State.endPort, if_pos h, if_pos (hcond.2 h)]
    simp [Port.mapBytes]
  · rw [State.endPort, State.endPort, if_neg h, if_neg (mt hcond.1 h)]

theorem State.raiseEndOfStream_mapBytes : (s.mapBytes f).raiseEndOfStream = s.raiseEndOfStream.mapBytes f := by
  simp only [State.raiseEndOfStream, s.mapPorts_mapBytes f (s.endPort_mapBytes f)]
  rfl

theorem State.resetAll_mapBytes : (s.mapBytes f).resetAll = s.resetAll.mapBytes f := by
  simp [State.resetAll, State.resetWith, State.mapBytes]

theorem State.appendSize_mapBytes (v : BitVec 16) : (s.mapBytes f).appendSize v = (s.appendSize v).mapBytes f := by
  unfold State.appendSize
  split
  · next h => rw [if_pos (show s.listLen.toNat < s.hw.nsubMax from h)]; rfl
  · next h => rw [if_neg (show ¬s.listLen.toNat < s.hw.nsubMax from h)]; rfl

theorem State.construct_mapBytes : (s.mapBytes f).construct = s.construct.mapBytes f := by
  have hcheck : (s.mapBytes f).configFailure = s.configFailure := rfl
  rw [State.construct, State.construct, hcheck]
  cases s.configFailure <;> rfl

end updates

section operations

variable (f : Byte → Byte) (s : State)

/-- A configuration operation, in IDLE and outside (R100), if each branch holds the mapped state. -/
theorem mapBytes_next_ite {a b a' b' : State} (ha : a' = a.mapBytes f) (hb : b' = b.mapBytes f) :
    (Host.Outcome.next (if s.life = .idle then a' else b') : Host.Outcome State Fault Refusal) =
      mapNext (State.mapBytes f) (.next (if s.life = .idle then a else b)) := by
  subst ha hb
  split <;> rfl

theorem execPush_mapBytes (p : BitVec 8) (b : Byte) :
    execPush p (f b) (s.mapBytes f) = mapNext (State.mapBytes f) (execPush p b s) := by
  simp only [execPush, apply_ite (mapNext (State.mapBytes f)), State.mapBytes_life, State.mapBytes_numSub,
    State.mapBytes_eosf, State.mapBytes_hasSpace, State.pushByte_mapBytes]
  rfl

theorem execEos_mapBytes (p : BitVec 8) :
    execEos p (s.mapBytes f) = mapNext (State.mapBytes f) (execEos p s) := by
  simp only [execEos, apply_ite (mapNext (State.mapBytes f)), State.mapBytes_life, State.mapBytes_numSub,
    State.setEos_mapBytes]
  rfl

theorem execAsm_mapBytes : execAsm (s.mapBytes f) = mapNext (State.mapBytes f) (execAsm s) := by
  by_cases hl : s.life = .run
  · simp only [execAsm, State.mapBytes_life, State.mapBytes_asmOutcome, hl, ne_eq, not_true_eq_false, if_false]
    cases s.asmOutcome with
    | emit => exact congrArg (fun t => Host.Outcome.next t.silent) (s.emit_mapBytes f)
    | endOfStream => exact congrArg (fun t => Host.Outcome.next t.silent) (s.raiseEndOfStream_mapBytes f)
    | stall => simp [State.stallReason, mapNext]
  · rw [execAsm, execAsm, State.mapBytes_life, if_pos hl, if_pos hl]
    rfl

theorem execPop_mapBytes : execPop (s.mapBytes f) = mapNext (State.mapBytes f) (execPop s) := by
  cases ho : s.out with
  | nil =>
    rw [execPop_nil s ho, execPop_nil (s.mapBytes f) (by simp [ho])]
    rfl
  | cons b rest =>
    rw [execPop_cons s b rest ho, execPop_cons (s.mapBytes f) (f b) (rest.map f) (by simp [ho])]
    rfl

/-- RDSR, if the register reads the same with the bytes mapped (R166). -/
theorem respond_mapBytes {v v' : Word} (h : v' = v) :
    (Host.Outcome.next ((s.mapBytes f).respond (.word v')) : Host.Outcome State Fault Refusal) =
      mapNext (State.mapBytes f) (.next (s.respond (.word v))) := by
  subst h
  rfl

end operations

/-- Settles O55: every operation reads lengths and flags of the FIFOs and of OUT, and moves their bytes unread. -/
theorem dataBytesAreOpaque : Obligations.DataBytesAreOpaque := by
  unfold Obligations.DataBytesAreOpaque
  intro f i s
  cases i with
  | reset => exact congrArg Host.Outcome.next (s.resetAll_mapBytes f)
  | cfgMode | cfgCount => exact mapBytes_next_ite f s rfl rfl
  | cfgSize v => exact mapBytes_next_ite f s (congrArg State.silent (s.appendSize_mapBytes f v)) rfl
  | cfgCommit => exact mapBytes_next_ite f s (congrArg State.silent (s.construct_mapBytes f)) rfl
  | push p b => exact execPush_mapBytes f s p b
  | eos p => exact execEos_mapBytes f s p
  | asm => exact execAsm_mapBytes f s
  | pop => exact execPop_mapBytes f s
  | rdsrOutlvl => exact respond_mapBytes f s (by simp [State.srOutlvl])
  | rdsrStatus => exact respond_mapBytes f s (s.mapBytes_statusWord f)
  | rdsrLvl p => exact respond_mapBytes f s (by simp [State.srLvl])
  | rdsrPflags p => exact respond_mapBytes f s (s.mapBytes_pflagsWord f p.toNat)
  | rdsrResid p => exact respond_mapBytes f s (by simp [State.srResid])
  | _ => exact respond_mapBytes f s rfl

end Sys2Proof.Machine
end

section
/-! The memory family, the history (R59, R136, R145): every operation keeps the history and the state tied together. -/
namespace Sys2Proof.Machine

/-- What a port contributes to the first `k` CIFs depends on the configuration only (R145). -/
theorem State.cum_congr {s t : State} (h : SameConfig s t) (p k : Nat) : t.cum p k = s.cum p k := by
  simp only [State.cum, State.need_congr h, State.cifsPerFrame_congr h]

namespace History

variable {h h' : History} {s t : State}

/-- A slice depends on the configuration and on the bytes pushed on its port only (R145 item 1). -/
theorem sliceOf_congr (hcfg : SameConfig s t) {p : Nat} (hpush : h'.pushed p = h.pushed p) (j : Nat) :
    h'.sliceOf t p j = h.sliceOf s p j := by
  simp only [History.sliceOf, hpush, State.cum_congr hcfg, State.need_congr hcfg, State.cifsPerFrame_congr hcfg]

/-- A CIF depends on the configuration and on the bytes pushed only (R145 item 1). -/
theorem cifs_congr_pushed (hcfg : SameConfig s t) (hpush : ∀ p, p ≤ s.numSub → h'.pushed p = h.pushed p)
    (k : Nat) : h'.cifs t k = h.cifs s k :=
  History.cifs_congr k (State.numSub_congr hcfg) fun p j hp _ => sliceOf_congr hcfg (hpush p hp) j

/-- Once the bytes of a slice have been pushed, more bytes do not change it. -/
theorem sliceOf_of_append {p j : Nat} {more : List Byte} (hpush : h'.pushed p = h.pushed p ++ more)
    (hlen : s.cum p (j + 1) ≤ (h.pushed p).length) : h'.sliceOf s p j = h.sliceOf s p j := by
  rw [State.cum_succ] at hlen
  rw [History.sliceOf, hpush, List.drop_append_of_le_length (by omega),
    List.take_append_of_le_length (by rw [List.length_drop]; omega), History.sliceOf]

/-- A slice has the bytes its CIF needs of the port, once they have been pushed. -/
theorem length_sliceOf {p j : Nat} (hlen : s.cum p (j + 1) ≤ (h.pushed p).length) :
    (h.sliceOf s p j).length = s.need p (j % s.cifsPerFrame) := by
  rw [State.cum_succ] at hlen
  rw [History.sliceOf, List.length_take_of_le (by rw [List.length_drop]; omega)]

/-- The slices of the ports below `p` fill a CIF up to the offset of port `p` (R134). -/
theorem length_slices {p j : Nat} (hlen : ∀ q, q < p → s.cum q (j + 1) ≤ (h.pushed q).length) :
    ((List.range p).flatMap (fun q => h.sliceOf s q j)).length = s.off p (j % s.cifsPerFrame) := by
  rw [List.length_flatMap, State.off]
  exact congrArg List.sum (List.map_congr_left fun q hq => length_sliceOf (hlen q (List.mem_range.1 hq)))

/-- A CIF has `cif_len` bytes, once they have been pushed (R134). -/
theorem length_cif {j : Nat} (hlen : ∀ p, p ≤ s.numSub → s.cum p (j + 1) ≤ (h.pushed p).length) :
    (h.cif s j).length = s.cifLen (j % s.cifsPerFrame) :=
  length_slices (p := s.numSub + 1) fun q hq => hlen q (Nat.le_of_lt_succ hq)

/-- The first `k` CIFs end where CIF number `k` starts, once their bytes have been pushed (R142). -/
theorem length_cifs {k : Nat} (hlen : ∀ p, p ≤ s.numSub → s.cum p k ≤ (h.pushed p).length) :
    (h.cifs s k).length = s.cifStart k := by
  rw [History.cifs, List.length_flatMap, State.cifStart]
  refine congrArg List.sum (List.map_congr_left fun j hj => length_cif fun p hp => ?_)
  exact Nat.le_trans (s.cum_mono p (List.mem_range.1 hj)) (hlen p hp)

end History

namespace Explains

variable {h : History} {s t : State}

/-- What explains a state does not depend on the model's own field `response`. -/
theorem withResponse (he : Explains h s) (r : Option Response) : Explains h { s with response := r } :=
  ⟨he.fresh, he.cifctr, he.frmctr, he.supplied, he.kept, he.nothingLost, he.residual, he.output, he.endReason⟩

/-- The empty history explains a state in which nothing has streamed, if the stream has not ended. -/
theorem of_unstreamed (hun : s.Unstreamed) (hl : s.life ≠ .ended) : Explains History.empty s := by
  have hport := fun p => State.fields_of_port_eq (State.port_of_unstreamed hun p)
  obtain ⟨-, hout, hcif, hfrm⟩ := hun
  refine ⟨fun _ => rfl, fun _ => ?_, fun _ => ?_, fun _ p _ => ?_, fun _ p _ => ?_, fun _ _ _ _ => rfl,
    fun h => absurd h hl, fun _ => ?_, fun h => absurd h hl⟩
  · simp [hcif, History.empty]
  · simp [hfrm, History.empty]
  · exact Nat.zero_le _
  · simp [hport, History.empty]
  · simp [hout, History.empty, History.cifs]

/-- What explains a configured state counts its CIFs. -/
theorem counted (he : Explains h s) (hc : s.Configured) : Counted h s :=
  ⟨fun hn => absurd hc hn, he.cifctr hc, he.frmctr hc, by
    rw [he.output hc, History.length_cifs (he.supplied hc)]⟩

/-- In RUN nothing has been discarded, and a FIFO holds what was pushed and not emitted (R59). -/
theorem fifo_of_run (he : Explains h s) (hl : s.life = .run) {p : Nat} (hp : p ≤ s.numSub) :
    (h.pushed p).drop (s.cum p h.emits) = s.fifo p := by
  rw [he.kept (.inl hl) p hp, he.nothingLost (.inl hl) p hp (.inl hl), List.append_nil]

/-- In RUN every byte pushed was emitted or is in the FIFO (R59). -/
theorem length_of_run (he : Explains h s) (hl : s.life = .run) {p : Nat} (hp : p ≤ s.numSub) :
    s.cum p h.emits + (s.fifo p).length = (h.pushed p).length := by
  have hle := he.supplied (.inl hl) p hp
  rw [← he.fifo_of_run hl hp, List.length_drop]
  omega

/-- In RUN a port is ready for the current CIF iff the bytes pushed on it reach to the end of the CIF after those
emitted. -/
theorem ready_iff (he : Explains h s) (hl : s.life = .run) {p : Nat} (hp : p ≤ s.numSub) :
    s.Ready p ↔ s.cum p (h.emits + 1) ≤ (h.pushed p).length := by
  rw [State.Ready, he.cifctr (.inl hl), State.cum_succ, ← he.length_of_run hl hp]
  omega

/-- What explains a state of RUN: there is no residual yet. -/
theorem of_run (hl : s.life = .run) (hcif : s.cifctr.toNat = h.emits % s.cifsPerFrame)
    (hfrm : s.frmctr = BitVec.ofNat 32 (h.emits / s.cifsPerFrame))
    (hsupplied : ∀ p, p ≤ s.numSub → s.cum p h.emits ≤ (h.pushed p).length)
    (hfifo : ∀ p, p ≤ s.numSub → (h.pushed p).drop (s.cum p h.emits) = s.fifo p)
    (hlost : ∀ p, p ≤ s.numSub → h.discarded p = []) (hout : h.popped ++ s.out = h.cifs s h.emits) :
    Explains h s := by
  have hnotEnded : s.life ≠ .ended := by simp [hl]
  refine ⟨fun hn => absurd (.inl hl) hn, fun _ => hcif, fun _ => hfrm, fun _ => hsupplied, fun _ p hp => ?_,
    fun _ p hp _ => hlost p hp, fun h => absurd h hnotEnded, fun _ => hout, fun h => absurd h hnotEnded⟩
  rw [hfifo p hp, hlost p hp, List.append_nil]

section run

variable (he : Explains h s) (hl : s.life = .run)
include he hl

/-- PUSH: the byte is pushed and stands last in the FIFO; the CIFs emitted were complete before (R59, R115). -/
theorem push {p : Nat} (hp : p < s.ports.length) (b : Byte) :
    Explains { h with pushed := fun q => if q = p then h.pushed q ++ [b] else h.pushed q } (s.pushByte p b) := by
  have hsupplied := he.supplied (.inl hl)
  refine of_run hl (he.cifctr (.inl hl)) (he.frmctr (.inl hl)) (fun q hq => ?_) (fun q hq => ?_)
    (fun q hq => he.nothingLost (.inl hl) q hq (.inl hl)) ?_
  · refine Nat.le_trans (hsupplied q hq) ?_
    dsimp only
    split <;> simp
  · rw [s.pushByte_fifo p q b hp]
    dsimp only
    split
    · next hqp =>
      subst hqp
      rw [State.pushByte_cum, List.drop_append_of_le_length (hsupplied q hq), he.fifo_of_run hl hq]
    · exact he.fifo_of_run hl hq
  · refine (he.output (.inl hl)).trans (History.cifs_congr h.emits rfl fun q j hq hj => ?_)
    have hpushed : s.cum q (j + 1) ≤ (h.pushed q).length := Nat.le_trans (s.cum_mono q hj) (hsupplied q hq)
    refine (History.sliceOf_of_append (more := if q = p then [b] else []) ?_ hpushed).symm
    dsimp only
    split <;> simp

/-- EOS changes no FIFO and counts nothing (R116). -/
theorem setEos (p : Nat) : Explains h (s.setEos p) := by
  refine of_run hl (he.cifctr (.inl hl)) (he.frmctr (.inl hl)) (he.supplied (.inl hl)) (fun q hq => ?_)
    (fun q hq => he.nothingLost (.inl hl) q hq (.inl hl)) (he.output (.inl hl))
  rw [State.setEos_fifo]
  exact he.fifo_of_run hl hq

/-- The CIF an EMIT appends is the next CIF of the bytes pushed (R134, R145 item 1). -/
theorem assembled_eq_cif : s.assembled s.cifctr.toNat = h.cif s h.emits := by
  rw [State.assembled, History.cif, List.flatMap_def, List.flatMap_def]
  refine congrArg List.flatten (List.map_congr_left fun p hp => ?_)
  rw [State.slice, memRead, History.sliceOf, he.fifo_of_run hl ((s.mem_portNumbers p).1 hp), he.cifctr (.inl hl)]

/-- EMIT: one CIF more is emitted, and every FIFO loses its slice of it (R135, R136). -/
theorem emit (hs : s.Inv) (ha : s.AllReady) : Explains { h with emits := h.emits + 1 } s.emit := by
  obtain ⟨-, hcif, hfrm, -⟩ := (he.counted (.inl hl)).emit hs hl ha
  refine of_run hl hcif hfrm (fun p hp => (he.ready_iff hl hp).1 (ha p hp)) (fun p hp => ?_)
    (fun p hp => he.nothingLost (.inl hl) p hp (.inl hl)) ?_
  · rw [State.emit_fifo, if_pos (show p ≤ s.numSub from hp), he.cifctr (.inl hl), ← he.fifo_of_run hl hp,
      List.drop_drop, State.emit_cum, State.cum_succ]
  · rw [State.emit_out, ← List.append_assoc, he.output (.inl hl), he.assembled_eq_cif hl]
    exact (h.cifs_succ s h.emits).symm

/-- END: the residuals of the ended ports are discarded and recorded, and one of these ports was short for the next CIF
(R137, R145 item 3). -/
theorem raiseEndOfStream (hshort : s.EndedShort) :
    Explains { h with discarded := fun p => if p ≤ s.numSub ∧ s.eosf p = true then s.fifo p else h.discarded p }
      s.raiseEndOfStream := by
  refine ⟨fun hn => absurd (.inr rfl) hn, fun _ => he.cifctr (.inl hl), fun _ => he.frmctr (.inl hl),
    fun _ => he.supplied (.inl hl), fun _ p hp => ?_, fun _ p hp hkeep => ?_, fun _ p hp hend => ?_,
    fun _ => he.output (.inl hl), fun _ => ?_⟩
  · rw [State.raiseEndOfStream_cum, State.raiseEndOfStream_fifo]
    dsimp only
    split
    · exact he.fifo_of_run hl hp
    · exact he.kept (.inl hl) p hp
  · have hopen : s.eosf p = false := by simpa using hkeep
    simp [hopen, he.nothingLost (.inl hl) p hp (.inl hl)]
  · rw [State.raiseEndOfStream_eosf] at hend
    simp [hend, show p ≤ s.numSub from hp]
  · obtain ⟨p, hp, hready, hend⟩ := hshort
    refine ⟨p, hp, by rwa [State.raiseEndOfStream_eosf], ?_⟩
    exact Nat.lt_of_not_le (mt (he.ready_iff hl hp).2 hready)

end run

/-- POP: the byte moves from OUT to the bytes popped (R155). -/
theorem pop (he : Explains h s) (hc : s.Configured) {b : Byte} {rest : List Byte} (ho : s.out = b :: rest) :
    Explains { h with popped := h.popped ++ [b] } { s with out := rest } := by
  have hmoved : (h.popped ++ [b]) ++ rest = h.popped ++ s.out := by rw [ho, List.append_assoc]; rfl
  exact ⟨fun hn => absurd hc hn, he.cifctr, he.frmctr, he.supplied, he.kept, he.nothingLost, he.residual,
    fun _ => hmoved.trans (he.output hc), he.endReason⟩

end Explains

/-- Every operation keeps the history and the state tied together. -/
theorem Effect_explains {i : Instr} {s t : State} {h : History} (hx : Effect i s t) (hs : s.Inv)
    (he : Explains h s) : Explains (h.after i s t) t := by
  have hidle : s.life = .idle → s.Unstreamed ∧ h = History.empty := fun hl =>
    ⟨(hs.idle hl).1, he.fresh (by simp [State.Configured, hl])⟩
  cases hx with
  | reset => exact .of_unstreamed (State.resetWith_unstreamed _) nofun
  | ignored _ _ hi =>
    rw [History.after_cfg hi]
    exact he.withResponse none
  | cfgMode _ _ hl | cfgCount _ _ hl =>
    obtain ⟨hun, rfl⟩ := hidle hl
    exact .of_unstreamed hun (by simp [hl])
  | cfgSize _ _ hl =>
    obtain ⟨hun, rfl⟩ := hidle hl
    exact .of_unstreamed (by simpa [State.Unstreamed] using hun) (by simp [hl])
  | commit _ hl =>
    obtain ⟨hun, rfl⟩ := hidle hl
    refine .of_unstreamed (by simpa [State.Unstreamed] using hun) ?_
    rcases s.construct_cases with ⟨e, -, hnew⟩ | ⟨-, hnew⟩ <;> simp [hnew]
  | push _ p b hl hp => exact (he.push hl (hs.port_lt hl hp) b).withResponse none
  | eos _ p hl => exact (he.setEos hl p.toNat).withResponse none
  | emit _ hl ha =>
    have hafter : h.after .asm s s.emit.silent = { h with emits := h.emits + 1 } := if_pos hl
    rw [hafter]
    exact (he.emit hl hs ha).withResponse none
  | endOfStream _ hl hshort => exact (he.raiseEndOfStream hl hshort).withResponse none
  | pop _ b rest ho =>
    have hconf := hs.configured_of_out (ho ▸ List.cons_ne_nil b rest)
    exact (he.pop hconf ho).withResponse (some (.byte b))
  | rdsr _ _ v hi =>
    rw [History.after_rdsr hi]
    exact he.withResponse (some (.word v))

/-- Every reachable state of an admissible hardware is explained by its history. -/
theorem reachable_explains {P : Params} {s : State} {h : History} (hP : P.Admissible) (hr : Reachable P s h) :
    Explains h s := by
  have hreset : Explains History.empty (State.resetWith P) := .of_unstreamed (State.resetWith_unstreamed P) nofun
  have hboth := reachable_keeps P (fun s h => s.Inv ∧ Explains h s) ⟨State.resetWith_inv hP, hreset⟩
    (fun i s t h ⟨hs, he⟩ hx => ⟨Effect_inv (exec_effect hx) hs, Effect_explains (exec_effect hx) hs he⟩)
  exact (hboth s h hr).2

/-- Settles O46: the cases of `Effect`, each by its lemma on `Explains`. -/
theorem historyStaysExplained : Obligations.HistoryStaysExplained := by
  unfold Obligations.HistoryStaysExplained
  intro i s t h hs he hx
  exact Effect_explains (exec_effect hx) hs he

/-- Settles O47, by induction over the operations that reach the state. -/
theorem reachableIsExplained : Obligations.ReachableIsExplained := by
  unfold Obligations.ReachableIsExplained
  intro P s h hP hr
  exact ⟨reachable_inv hP hr, reachable_explains hP hr⟩

end Sys2Proof.Machine
end

section
/-! The memory family, conservation and determinism (R59, R64, R145): where the bytes pushed are found again, and that
nothing but the bytes pushed decides the output. -/
namespace Sys2Proof.Machine

/-- Part of the `j`-th of some lists, read where it stands in all of them together. -/
theorem take_drop_flatMap_range {α : Type} (g : Nat → List α) {j k n m : Nat} (hj : j < k)
    (hnm : n + m ≤ (g j).length) :
    (((List.range k).flatMap g).drop (((List.range j).flatMap g).length + n)).take m = ((g j).drop n).take m := by
  obtain ⟨i, rfl⟩ : ∃ i, k = j + 1 + i := ⟨k - (j + 1), by omega⟩
  rw [List.range_add, List.flatMap_append, List.range_succ, List.flatMap_append, List.append_assoc,
    List.drop_length_add_append, List.flatMap_singleton, List.drop_append_of_le_length (by omega),
    List.take_append_of_le_length (by rw [List.length_drop]; omega)]

theorem State.off_mono (s : State) (c : Nat) {p q : Nat} (h : p ≤ q) : s.off p c ≤ s.off q c := by
  induction h with
  | refl => exact Nat.le_refl _
  | step _ ih => rw [State.off_succ]; omega

/-- A port's slice stands in the CIF at the port's offset (R134). -/
theorem History.take_drop_cif {h : History} {s : State} {p j : Nat} (hp : p ≤ s.numSub)
    (hlen : ∀ q, q ≤ s.numSub → s.cum q (j + 1) ≤ (h.pushed q).length) :
    ((h.cif s j).drop (s.off p (j % s.cifsPerFrame))).take (s.need p (j % s.cifsPerFrame)) = h.sliceOf s p j := by
  have hslice := History.length_sliceOf (hlen p hp)
  have hoff := History.length_slices (p := p) fun q hq => hlen q (by omega)
  rw [History.cif, State.portNumbers, ← hoff, ← hslice, ← Nat.add_zero (List.length (List.flatMap _ _)),
    take_drop_flatMap_range _ (Nat.lt_succ_of_le hp) (by omega), List.drop_zero, List.take_length]

/-- The bytes of a port in the first `k` CIFs are its slices of them, in order (R145). -/
theorem History.take_cum (h : History) (s : State) (p k : Nat) :
    (h.pushed p).take (s.cum p k) = (List.range k).flatMap (fun j => h.sliceOf s p j) := by
  induction k with
  | zero => rfl
  | succ k ih =>
    rw [State.cum_succ, List.take_add, ih, List.range_succ, List.flatMap_append, List.flatMap_singleton]
    rfl

namespace Explains

variable {h : History} {s : State}

/-- A quiescent state has emitted every CIF whose bytes have been pushed (R145 item 2). -/
theorem le_emits_of_quiescent (he : Explains h s) (hq : s.Quiescent) {k : Nat}
    (hk : ∀ p, p ≤ s.numSub → s.cum p k ≤ (h.pushed p).length) : k ≤ h.emits := by
  refine Nat.le_of_not_lt fun hlt => ?_
  have hnext : ∀ p, p ≤ s.numSub → s.cum p (h.emits + 1) ≤ (h.pushed p).length := fun p hp =>
    Nat.le_trans (s.cum_mono p hlt) (hk p hp)
  rcases hq with hl | ⟨hl, hroom, hheld⟩
  · obtain ⟨p, hp, -, hshort⟩ := he.endReason hl
    exact absurd (hnext p hp) (Nat.not_le_of_lt hshort)
  · exact hheld _ (execAsm_emit s hl (fun p hp => (he.ready_iff hl hp).2 (hnext p hp)) hroom)

section configured

variable (he : Explains h s) (hc : s.Configured)
include he hc

/-- Read from the output, a port's slice of an emitted CIF is the port's next bytes pushed (R59, R134). -/
theorem emittedSlice_eq {p j : Nat} (hp : p ≤ s.numSub) (hj : j < h.emits) :
    h.emittedSlice s p j = h.sliceOf s p j := by
  have hlen : ∀ k, k ≤ h.emits → ∀ q, q ≤ s.numSub → s.cum q k ≤ (h.pushed q).length := fun k hk q hq =>
    Nat.le_trans (s.cum_mono q hk) (he.supplied hc q hq)
  have hfits : s.off p (j % s.cifsPerFrame) + s.need p (j % s.cifsPerFrame) ≤ (h.cif s j).length := by
    rw [History.length_cif (hlen (j + 1) hj), ← State.off_succ]
    exact s.off_mono _ (Nat.succ_le_succ hp)
  rw [← History.take_drop_cif hp (hlen (j + 1) hj), ← take_drop_flatMap_range (h.cif s) hj hfits,
    History.emittedSlice, he.output hc, ← History.length_cifs (hlen j (Nat.le_of_lt hj))]
  rfl

/-- The bytes pushed are those of the emitted slices, then the FIFO, then the discarded residual (R59). -/
theorem pushed_eq {p : Nat} (hp : p ≤ s.numSub) :
    h.pushed p = (List.range h.emits).flatMap (fun j => h.emittedSlice s p j) ++ s.fifo p ++ h.discarded p := by
  have hslices : (List.range h.emits).flatMap (fun j => h.emittedSlice s p j) =
      (h.pushed p).take (s.cum p h.emits) := by
    rw [h.take_cum s p, List.flatMap_def, List.flatMap_def]
    exact congrArg List.flatten
      (List.map_congr_left fun j hj => he.emittedSlice_eq hc hp (List.mem_range.1 hj))
  rw [hslices, List.append_assoc, ← he.kept hc p hp, List.take_append_drop]

end configured

end Explains

/-- Settles O48: the bytes emitted are read from the output slice by slice, the rest is what `Explains` says is kept. -/
theorem nothingLostNothingDuplicated : Obligations.NothingLostNothingDuplicated := by
  unfold Obligations.NothingLostNothingDuplicated
  intro P s h hP hr hc p hp
  have he := reachable_explains hP hr
  refine ⟨he.pushed_eq hc hp, fun hl => he.nothingLost hc p hp (.inl hl),
    fun _ hopen => he.nothingLost hc p hp (.inr hopen), fun hl hend => ?_⟩
  obtain ⟨-, hresid, -⟩ := he.residual hl p hp hend
  exact hresid

theorem sameConfig_symm {s t : State} (h : SameConfig s t) : SameConfig t s := by
  obtain ⟨hhw, hmode, hcount, hlen, hsizes⟩ := h
  exact ⟨hhw.symm, hmode.symm, hcount.symm, hlen.symm, hsizes.symm⟩

/-- Of two quiescent states with one configuration and the same bytes pushed, neither has emitted more CIFs than the
other (R64). -/
theorem Explains.emits_le_of_quiescent {h h' : History} {s s' : State} (he : Explains h s) (he' : Explains h' s')
    (hc : s.Configured) (hcfg : SameConfig s s') (hq' : s'.Quiescent)
    (hpush : ∀ p, p ≤ s.numSub → h.pushed p = h'.pushed p) : h.emits ≤ h'.emits := by
  refine he'.le_emits_of_quiescent hq' fun p hp => ?_
  rw [State.numSub_congr hcfg] at hp
  rw [State.cum_congr hcfg, ← hpush p hp]
  exact he.supplied hc p hp

/-- Settles O54: both states have emitted the same number of CIFs, and these are the CIFs of the same bytes. -/
theorem outputIsDetermined : Obligations.OutputIsDetermined := by
  unfold Obligations.OutputIsDetermined
  intro P s s' h h' hP hr hr' hc hc' hcfg hq hq' hpush
  have he := reachable_explains hP hr
  have he' := reachable_explains hP hr'
  have hpush' : ∀ p, p ≤ s'.numSub → h'.pushed p = h.pushed p := fun p hp =>
    (hpush p (State.numSub_congr hcfg ▸ hp)).symm
  have hemits : h.emits = h'.emits := Nat.le_antisymm
    (he.emits_le_of_quiescent he' hc hcfg hq' hpush)
    (he'.emits_le_of_quiescent he hc' (sameConfig_symm hcfg) hq hpush')
  refine ⟨hemits, ?_⟩
  rw [he.output hc, he'.output hc', hemits, ← History.cifs_congr_pushed hcfg fun p hp => (hpush p hp).symm]

end Sys2Proof.Machine
end

section
/-! The encoding family (spec/30_encoding.md): decoder and encoder are inverse to each other (R77 to R81): the word of an
instruction decodes to it, and a word that decodes has every field as the encoder writes it. -/
namespace Sys2Proof

section fields

variable {w : Word} {o : BitVec 4} {p b : BitVec 8} {d : BitVec 16}

/-- A word whose `rsv` is 0 is assembled from the values its fields have (R77). -/
theorem mkWord_eq_of_fields (hrsv : fieldRsv w = 0) (hop : fieldOp w = o) (hport : fieldPort w = p)
    (hopd : fieldOpd w = d) : mkWord o p d = w := by
  rw [← hop, ← hport, ← hopd]
  exact mkWord_fields w hrsv

/-- The same with an 8-bit operand in `opd` (R78). -/
theorem mkWord_opdByte_eq_of_fields (hrsv : fieldRsv w = 0) (hop : fieldOp w = o) (hport : fieldPort w = p)
    (hhi : fieldOpdHi w = 0) (hlo : fieldOpdLo w = b) : mkWord o p (opdByte b) = w :=
  mkWord_eq_of_fields hrsv hop hport (hlo ▸ (opdByte_fieldOpdLo w hhi).symm)

end fields

section decodeEncode

/-- RDSR decodes by its register number: below 0x10 format G, whose `port` is 0, from there on format Q (R78, R81). -/
theorem decode_rdsr (p r : BitVec 8) : decode (mkWord 0xA p (opdByte r)) =
    if r.toNat < 0x10 then (if p = 0 then decodeGlobal r else none) else decodePerPort r p := by
  simp [decode, decodeRdsr]

/-- A global register is encoded with `port` 0. -/
theorem decode_rdsr_global {r : BitVec 8} (h : r.toNat < 0x10) :
    decode (mkWord 0xA 0 (opdByte r)) = decodeGlobal r := by
  rw [decode_rdsr, if_pos h, if_pos rfl]

/-- A per-port register is encoded with its port. -/
theorem decode_rdsr_perPort {r : BitVec 8} (h : ¬r.toNat < 0x10) (p : BitVec 8) :
    decode (mkWord 0xA p (opdByte r)) = decodePerPort r p := by
  rw [decode_rdsr, if_neg h]

/-- Decoding gives back the encoded instruction, row by row of the opcode map. -/
theorem decode_encode (i : Instr) : decode (encode i) = some i := by
  cases i with
  | reset => simp [encode, decode]
  | cfgMode m => simp [encode, decode]
  | cfgCount n => simp [encode, decode]
  | cfgSize v => simp [encode, decode]
  | cfgCommit => simp [encode, decode]
  | push p b => simp [encode, decode]
  | eos p => simp [encode, decode]
  | asm => simp [encode, decode]
  | pop => simp [encode, decode]
  | rdsrState => exact decode_rdsr_global (by decide)
  | rdsrErr => exact decode_rdsr_global (by decide)
  | rdsrMode => exact decode_rdsr_global (by decide)
  | rdsrCount => exact decode_rdsr_global (by decide)
  | rdsrListlen => exact decode_rdsr_global (by decide)
  | rdsrCifctr => exact decode_rdsr_global (by decide)
  | rdsrFrmctr => exact decode_rdsr_global (by decide)
  | rdsrOutlvl => exact decode_rdsr_global (by decide)
  | rdsrStatus => exact decode_rdsr_global (by decide)
  | rdsrCiflen => exact decode_rdsr_global (by decide)
  | rdsrFramelen => exact decode_rdsr_global (by decide)
  | rdsrLvl p => exact decode_rdsr_perPort (by decide) p
  | rdsrSlot p => exact decode_rdsr_perPort (by decide) p
  | rdsrPflags p => exact decode_rdsr_perPort (by decide) p
  | rdsrResid p => exact decode_rdsr_perPort (by decide) p
  | rdsrSize p => exact decode_rdsr_perPort (by decide) p

end decodeEncode

section encodeDecode

variable {i : Instr}

/-- A global register's instruction is encoded with that register's number. -/
theorem encode_of_decodeGlobal {r : BitVec 8} (h : decodeGlobal r = some i) :
    encode i = mkWord 0xA 0 (opdByte r) := by
  unfold decodeGlobal at h
  split at h
  case h_12 => cases h
  all_goals
    next hr =>
      cases h
      exact congrArg (fun x => mkWord 0xA 0 (opdByte x)) (BitVec.eq_of_toNat_eq hr).symm

/-- A per-port register's instruction is encoded with that register's number and its port. -/
theorem encode_of_decodePerPort {r p : BitVec 8} (h : decodePerPort r p = some i) :
    encode i = mkWord 0xA p (opdByte r) := by
  unfold decodePerPort at h
  split at h
  case h_6 => cases h
  all_goals
    next hr =>
      cases h
      exact congrArg (fun x => mkWord 0xA p (opdByte x)) (BitVec.eq_of_toNat_eq hr).symm

/-- The instruction RDSR decodes to is encoded with the word's own register number and port (R78). -/
theorem encode_of_decodeRdsr {w : Word} (hrsv : fieldRsv w = 0) (hop : fieldOp w = 0xA)
    (h : decodeRdsr w = some i) : encode i = w := by
  unfold decodeRdsr at h
  split at h
  · cases h
  · next hhi =>
    have hhi : fieldOpdHi w = 0 := Decidable.not_not.1 hhi
    split at h
    · split at h
      · next hport =>
        exact (encode_of_decodeGlobal h).trans (mkWord_opdByte_eq_of_fields hrsv hop hport hhi rfl)
      · cases h
    · exact (encode_of_decodePerPort h).trans (mkWord_opdByte_eq_of_fields hrsv hop rfl hhi rfl)

/-- A word that decodes has every field at the value the encoder writes, opcode by opcode. -/
theorem encode_of_decode {w : Word} (h : decode w = some i) : encode i = w := by
  unfold decode at h
  split at h
  · cases h
  · next hrsv =>
    have hrsv : fieldRsv w = 0 := Decidable.not_not.1 hrsv
    have hop : ∀ o : BitVec 4, (fieldOp w).toNat = o.toNat → fieldOp w = o := fun _ => BitVec.eq_of_toNat_eq
    split at h
    case h_1 ho =>
      obtain ⟨⟨hport, hopd⟩, ⟨⟩⟩ := Option.ite_none_right_eq_some.1 h
      exact mkWord_eq_of_fields hrsv (hop 0x1 ho) hport hopd
    case h_2 ho =>
      obtain ⟨⟨hport, hhi⟩, ⟨⟩⟩ := Option.ite_none_right_eq_some.1 h
      exact mkWord_opdByte_eq_of_fields hrsv (hop 0x2 ho) hport hhi rfl
    case h_3 ho =>
      obtain ⟨hport, ⟨⟩⟩ := Option.ite_none_right_eq_some.1 h
      exact mkWord_eq_of_fields hrsv (hop 0x3 ho) hport rfl
    case h_4 ho =>
      obtain ⟨hport, ⟨⟩⟩ := Option.ite_none_right_eq_some.1 h
      exact mkWord_eq_of_fields hrsv (hop 0x4 ho) hport rfl
    case h_5 ho =>
      obtain ⟨⟨hport, hopd⟩, ⟨⟩⟩ := Option.ite_none_right_eq_some.1 h
      exact mkWord_eq_of_fields hrsv (hop 0x5 ho) hport hopd
    case h_6 ho =>
      obtain ⟨hhi, ⟨⟩⟩ := Option.ite_none_right_eq_some.1 h
      exact mkWord_opdByte_eq_of_fields hrsv (hop 0x6 ho) rfl hhi rfl
    case h_7 ho =>
      obtain ⟨hopd, ⟨⟩⟩ := Option.ite_none_right_eq_some.1 h
      exact mkWord_eq_of_fields hrsv (hop 0x7 ho) rfl hopd
    case h_8 ho =>
      obtain ⟨⟨hport, hopd⟩, ⟨⟩⟩ := Option.ite_none_right_eq_some.1 h
      exact mkWord_eq_of_fields hrsv (hop 0x8 ho) hport hopd
    case h_9 ho =>
      obtain ⟨⟨hport, hopd⟩, ⟨⟩⟩ := Option.ite_none_right_eq_some.1 h
      exact mkWord_eq_of_fields hrsv (hop 0x9 ho) hport hopd
    case h_10 ho => exact encode_of_decodeRdsr hrsv (hop 0xA ho) h
    case h_11 => cases h

end encodeDecode

/-- Settles O2: every instruction decodes from its own word, whatever its operands. -/
theorem decodeOfEncode : Obligations.DecodeOfEncode := by
  unfold Obligations.DecodeOfEncode
  exact fun i _ => decode_encode i

/-- Settles O3: a word that decodes has every field as the encoder writes it. -/
theorem encodeOfDecode : Obligations.EncodeOfDecode := by
  unfold Obligations.EncodeOfDecode
  exact fun _ _ h => encode_of_decode h

end Sys2Proof
end

section
/-! The encoding family, the opcode map (R80, R81): the words a row encodes are the words of the operation with its
mnemonic, so a legal word has exactly one row. -/
namespace Sys2Proof

section masks

variable {w m x : Word}

/-- A field that the mask covers is the pattern's field (R80). -/
theorem extractLsb'_of_and {i n : Nat} (h : w &&& m = x) (hm : m.extractLsb' i n = BitVec.allOnes n) :
    w.extractLsb' i n = x.extractLsb' i n := by
  rw [← h, BitVec.extractLsb'_and, hm, BitVec.and_allOnes]

variable {o : BitVec 4} {p : BitVec 8} {d : BitVec 16}

/-! Each field of a word whose masked value is an assembled word. -/

theorem fieldOp_of_and (h : w &&& m = mkWord o p d) (hm : fieldOp m = BitVec.allOnes 4) : fieldOp w = o :=
  (extractLsb'_of_and h hm).trans (fieldOp_mkWord o p d)

theorem fieldPort_of_and (h : w &&& m = mkWord o p d) (hm : fieldPort m = BitVec.allOnes 8) : fieldPort w = p :=
  (extractLsb'_of_and h hm).trans (fieldPort_mkWord o p d)

theorem fieldRsv_of_and (h : w &&& m = mkWord o p d) (hm : fieldRsv m = BitVec.allOnes 4) : fieldRsv w = 0 :=
  (extractLsb'_of_and h hm).trans (fieldRsv_mkWord o p d)

theorem fieldOpd_of_and (h : w &&& m = mkWord o p d) (hm : fieldOpd m = BitVec.allOnes 16) : fieldOpd w = d :=
  (extractLsb'_of_and h hm).trans (fieldOpd_mkWord o p d)

theorem fieldOpdHi_of_and {b : BitVec 8} (h : w &&& m = mkWord o p (opdByte b))
    (hm : fieldOpdHi m = BitVec.allOnes 8) : fieldOpdHi w = 0 :=
  (extractLsb'_of_and h hm).trans (fieldOpdHi_mkWord o p b)

end masks

/-- Every word the row encodes is the word of an instruction with the row's mnemonic. -/
def OpcodeRow.Spells (r : OpcodeRow) : Prop :=
  ∀ w, r.encodes w = true → ∃ i : Instr, encode i = w ∧ r.mnemonic = i.mnemonic

namespace OpcodeRow

variable {n : String} {x : Word} {o : BitVec 4}

theorem and_of_encodes {r : OpcodeRow} {w : Word} (h : r.encodes w = true) : w &&& r.mask = r.pattern :=
  eq_of_beq h

/-- Formats Z and G: no operand (R78). -/
theorem spells_fixed (i : Instr) (hx : x = encode i) (hn : n = i.mnemonic) : Spells ⟨n, x, 0xFFFFFFFF⟩ := by
  intro w h
  have hw : w = x := BitVec.and_allOnes.symm.trans (and_of_encodes h)
  exact ⟨i, (hw.trans hx).symm, hn⟩

/-- Format M: an 8-bit operand in `opd` (R78). -/
theorem spells_byte (f : BitVec 8 → Instr) (hf : ∀ b, encode (f b) = mkWord o 0 (opdByte b))
    (hx : x = mkWord o 0 (opdByte 0)) (hn : ∀ b, n = (f b).mnemonic) : Spells ⟨n, x, 0xFFFFFF00⟩ := by
  intro w h
  have hand : w &&& 0xFFFFFF00 = mkWord o 0 (opdByte 0) := (and_of_encodes h).trans hx
  refine ⟨f (fieldOpdLo w), (hf _).trans (mkWord_opdByte_eq_of_fields ?_ ?_ ?_ ?_ rfl), hn _⟩
  · exact fieldRsv_of_and hand (by decide)
  · exact fieldOp_of_and hand (by decide)
  · exact fieldPort_of_and hand (by decide)
  · exact fieldOpdHi_of_and hand (by decide)

/-- Formats C and S: a 16-bit operand in `opd` (R78). -/
theorem spells_half (f : BitVec 16 → Instr) (hf : ∀ d, encode (f d) = mkWord o 0 d) (hx : x = mkWord o 0 0)
    (hn : ∀ d, n = (f d).mnemonic) : Spells ⟨n, x, 0xFFFF0000⟩ := by
  intro w h
  have hand : w &&& 0xFFFF0000 = mkWord o 0 0 := (and_of_encodes h).trans hx
  refine ⟨f (fieldOpd w), (hf _).trans (mkWord_eq_of_fields ?_ ?_ ?_ rfl), hn _⟩
  · exact fieldRsv_of_and hand (by decide)
  · exact fieldOp_of_and hand (by decide)
  · exact fieldPort_of_and hand (by decide)

/-- Format B: a port and an 8-bit operand in `opd` (R78). -/
theorem spells_portByte (f : BitVec 8 → BitVec 8 → Instr) (hf : ∀ p b, encode (f p b) = mkWord o p (opdByte b))
    (hx : x = mkWord o 0 (opdByte 0)) (hn : ∀ p b, n = (f p b).mnemonic) : Spells ⟨n, x, 0xF00FFF00⟩ := by
  intro w h
  have hand : w &&& 0xF00FFF00 = mkWord o 0 (opdByte 0) := (and_of_encodes h).trans hx
  refine ⟨f (fieldPort w) (fieldOpdLo w), (hf _ _).trans (mkWord_opdByte_eq_of_fields ?_ ?_ rfl ?_ rfl), hn _ _⟩
  · exact fieldRsv_of_and hand (by decide)
  · exact fieldOp_of_and hand (by decide)
  · exact fieldOpdHi_of_and hand (by decide)

/-- Formats E and Q: a port, and `opd` fixed (R78). -/
theorem spells_port {d : BitVec 16} (f : BitVec 8 → Instr) (hf : ∀ p, encode (f p) = mkWord o p d)
    (hx : x = mkWord o 0 d) (hn : ∀ p, n = (f p).mnemonic) : Spells ⟨n, x, 0xF00FFFFF⟩ := by
  intro w h
  have hand : w &&& 0xF00FFFFF = mkWord o 0 d := (and_of_encodes h).trans hx
  refine ⟨f (fieldPort w), (hf _).trans (mkWord_eq_of_fields ?_ ?_ rfl ?_), hn _⟩
  · exact fieldRsv_of_and hand (by decide)
  · exact fieldOp_of_and hand (by decide)
  · exact fieldOpd_of_and hand (by decide)

end OpcodeRow

open OpcodeRow in
/-- The rows of the opcode map, each by its format (R78, R80). -/
theorem opcodeMap_spells : ∀ r ∈ opcodeMap, r.Spells := by
  unfold opcodeMap
  simp only [List.cons_append, List.nil_append, List.forall_mem_cons]
  exact ⟨
    spells_fixed .reset (by decide) rfl,
    spells_byte .cfgMode (fun _ => rfl) (by decide) fun _ => rfl,
    spells_half .cfgCount (fun _ => rfl) (by decide) fun _ => rfl,
    spells_half .cfgSize (fun _ => rfl) (by decide) fun _ => rfl,
    spells_fixed .cfgCommit (by decide) rfl,
    spells_portByte .push (fun _ _ => rfl) (by decide) fun _ _ => rfl,
    spells_port .eos (fun _ => rfl) (by decide) fun _ => rfl,
    spells_fixed .asm (by decide) rfl,
    spells_fixed .pop (by decide) rfl,
    spells_fixed .rdsrState (by decide) rfl,
    spells_fixed .rdsrErr (by decide) rfl,
    spells_fixed .rdsrMode (by decide) rfl,
    spells_fixed .rdsrCount (by decide) rfl,
    spells_fixed .rdsrListlen (by decide) rfl,
    spells_fixed .rdsrCifctr (by decide) rfl,
    spells_fixed .rdsrFrmctr (by decide) rfl,
    spells_fixed .rdsrOutlvl (by decide) rfl,
    spells_fixed .rdsrStatus (by decide) rfl,
    spells_fixed .rdsrCiflen (by decide) rfl,
    spells_fixed .rdsrFramelen (by decide) rfl,
    spells_port .rdsrLvl (fun _ => rfl) (by decide) fun _ => rfl,
    spells_port .rdsrSlot (fun _ => rfl) (by decide) fun _ => rfl,
    spells_port .rdsrPflags (fun _ => rfl) (by decide) fun _ => rfl,
    spells_port .rdsrResid (fun _ => rfl) (by decide) fun _ => rfl,
    spells_port .rdsrSize (fun _ => rfl) (by decide) fun _ => rfl,
    nofun⟩

/-- Every instruction's word has the row with its mnemonic (R80). -/
theorem encodesItsRow (i : Instr) : Laws.EncodesItsRow.Statement i := by
  cases i with
  | reset => exact Laws.EncodesItsRow.reset
  | cfgMode m => exact Laws.EncodesItsRow.cfgMode m
  | cfgCount n => exact Laws.EncodesItsRow.cfgCount n
  | cfgSize v => exact Laws.EncodesItsRow.cfgSize v
  | cfgCommit => exact Laws.EncodesItsRow.cfgCommit
  | push p b => exact Laws.EncodesItsRow.push p b
  | eos p => exact Laws.EncodesItsRow.eos p
  | asm => exact Laws.EncodesItsRow.asm
  | pop => exact Laws.EncodesItsRow.pop
  | rdsrState => exact Laws.EncodesItsRow.rdsrState
  | rdsrErr => exact Laws.EncodesItsRow.rdsrErr
  | rdsrMode => exact Laws.EncodesItsRow.rdsrMode
  | rdsrCount => exact Laws.EncodesItsRow.rdsrCount
  | rdsrListlen => exact Laws.EncodesItsRow.rdsrListlen
  | rdsrCifctr => exact Laws.EncodesItsRow.rdsrCifctr
  | rdsrFrmctr => exact Laws.EncodesItsRow.rdsrFrmctr
  | rdsrOutlvl => exact Laws.EncodesItsRow.rdsrOutlvl
  | rdsrStatus => exact Laws.EncodesItsRow.rdsrStatus
  | rdsrCiflen => exact Laws.EncodesItsRow.rdsrCiflen
  | rdsrFramelen => exact Laws.EncodesItsRow.rdsrFramelen
  | rdsrLvl p => exact Laws.EncodesItsRow.rdsrLvl p
  | rdsrSlot p => exact Laws.EncodesItsRow.rdsrSlot p
  | rdsrPflags p => exact Laws.EncodesItsRow.rdsrPflags p
  | rdsrResid p => exact Laws.EncodesItsRow.rdsrResid p
  | rdsrSize p => exact Laws.EncodesItsRow.rdsrSize p

/-- A word that a row encodes decodes to an instruction of that row. -/
theorem decode_of_encodes {r : OpcodeRow} (hr : r ∈ opcodeMap) {w : Word} (h : r.encodes w = true) :
    ∃ i, decode w = some i ∧ r.mnemonic = i.mnemonic := by
  obtain ⟨i, rfl, hn⟩ := opcodeMap_spells r hr w h
  exact ⟨i, decode_encode i, hn⟩

/-- The row of a word is that of the instruction it decodes to. -/
theorem mnemonic_of_encodes {r : OpcodeRow} (hr : r ∈ opcodeMap) {w : Word} (h : r.encodes w = true) {i : Instr}
    (hd : decode w = some i) : r.mnemonic = i.mnemonic := by
  obtain ⟨j, hj, hn⟩ := decode_of_encodes hr h
  rw [hn, Option.some.inj (hj.symm.trans hd)]

/-- Every row of the opcode map has a mnemonic of its own. -/
theorem opcodeMap_mnemonics_nodup : (opcodeMap.map OpcodeRow.mnemonic).Nodup := by decide

/-- A word that decodes has exactly one row: the rows it has share one mnemonic. -/
theorem length_filter_encodes {w : Word} {i : Instr} (h : decode w = some i) :
    (opcodeMap.filter (fun r => r.encodes w)).length = 1 := by
  have hsame : ∀ n ∈ (opcodeMap.filter (fun r => r.encodes w)).map OpcodeRow.mnemonic, n = i.mnemonic := by
    intro n hn
    obtain ⟨r, hr, rfl⟩ := List.mem_map.1 hn
    obtain ⟨hr, he⟩ := List.mem_filter.1 hr
    exact mnemonic_of_encodes hr he h
  have hle : (opcodeMap.filter (fun r => r.encodes w)).length ≤ 1 := by
    have hnodup : ((opcodeMap.filter (fun r => r.encodes w)).map OpcodeRow.mnemonic).Nodup :=
      opcodeMap_mnemonics_nodup.sublist (List.filter_sublist.map _)
    rwa [List.eq_replicate_of_mem hsame, List.nodup_replicate, List.length_map] at hnodup
  obtain ⟨r, hr, -, he⟩ := encodesItsRow i
  rw [encode_of_decode h] at he
  exact Nat.le_antisymm hle (List.length_pos_of_mem (List.mem_filter.2 ⟨hr, he⟩))

/-- Settles O4: a row's words are its operation's words, every instruction has a row, and no two rows have one
mnemonic. -/
theorem legalIffExactlyOneRow : Obligations.LegalIffExactlyOneRow := by
  unfold Obligations.LegalIffExactlyOneRow
  refine fun w => ⟨⟨fun hd => ?_, fun hlen => ?_⟩, fun i hd r hr he => mnemonic_of_encodes hr he hd⟩
  · obtain ⟨i, hi⟩ := Option.isSome_iff_exists.1 hd
    exact length_filter_encodes hi
  · obtain ⟨r, hone⟩ := List.length_eq_one_iff.1 hlen
    obtain ⟨hr, he⟩ := List.mem_filter.1 (hone ▸ List.mem_singleton_self r)
    obtain ⟨i, hi, -⟩ := decode_of_encodes hr he
    rw [hi, Option.isSome_some]

end Sys2Proof
end

section
/-! The encoding family, words and operations at the interface: the words of spec/95, the words no operation is performed
for (R88), and what an operation returns (R90). -/
namespace Sys2Proof.Machine

/-- Settles O1, by evaluating the decoder on the words of spec/95 section 2.1. -/
theorem decodeReadsTheSpecWords : Obligations.DecodeReadsTheSpecWords := by
  unfold Obligations.DecodeReadsTheSpecWords
  decide

/-- With no word left there is no operation to perform. -/
theorem step_of_trace_nil {s : State} (h : s.trace = []) : step s = .fault .noOperation := by
  have hfetch : s.fetch = none := by rw [State.fetch, h]
  simp only [step, hfetch]

/-- A reserved word performs no operation (R88). -/
theorem step_of_reserved {s : State} {w : Word} {rest : List Word} (h : s.trace = w :: rest)
    (hd : decode w = none) : step s = .refused (.reserved w) := by
  have hfetch : s.fetch = some (w, { s with trace := rest }) := by rw [State.fetch, h]
  simp only [step, hfetch, hd]

/-- Settles O6: the two cases of the fetch that lead to no operation. -/
theorem stepStopsWithoutAnOperation : Obligations.StepStopsWithoutAnOperation := by
  unfold Obligations.StepStopsWithoutAnOperation
  exact ⟨fun _ _ _ htrace hd => step_of_reserved htrace hd, fun _ htrace => step_of_trace_nil htrace⟩

/-- POP is no RDSR. -/
theorem ne_pop_of_isRdsr {i : Instr} (h : isRdsr i = true) : i ≠ .pop := by
  rintro rfl
  exact Bool.noConfusion h

/-- A configuration operation is neither POP nor RDSR. -/
theorem not_returning_of_isCfg {i : Instr} (h : isCfg i = true) : i ≠ .pop ∧ isRdsr i = false := by
  cases i with
  | cfgMode | cfgCount | cfgSize | cfgCommit => exact ⟨nofun, rfl⟩
  | _ => cases h

/-- What an operation leaves in `response` (R90): a byte if it is POP, a word if it is RDSR, else nothing. -/
theorem Effect_response {i : Instr} {s t : State} (h : Effect i s t) :
    (i = .pop ∧ ∃ b, t.response = some (.byte b)) ∨ (isRdsr i = true ∧ ∃ v, t.response = some (.word v)) ∨
      (i ≠ .pop ∧ isRdsr i = false ∧ t.response = none) := by
  cases h with
  | pop _ b => exact .inl ⟨rfl, b, rfl⟩
  | rdsr _ _ v hi => exact .inr (.inl ⟨hi, v, rfl⟩)
  | ignored _ _ hi =>
    obtain ⟨hpop, hrdsr⟩ := not_returning_of_isCfg hi
    exact .inr (.inr ⟨hpop, hrdsr, rfl⟩)
  | _ => exact .inr (.inr ⟨nofun, rfl, rfl⟩)

/-- Settles O33: the cases of `Effect_response` exclude one another. -/
theorem onlyPopAndRdsrReturn : Obligations.OnlyPopAndRdsrReturn := by
  unfold Obligations.OnlyPopAndRdsrReturn
  intro i s t hx
  rcases Effect_response (exec_effect hx) with ⟨hi, hb⟩ | ⟨hi, hv⟩ | ⟨hpop, hrdsr, hnone⟩
  · exact ⟨fun _ => hb, fun hr => absurd hi (ne_pop_of_isRdsr hr), fun hne => absurd hi hne⟩
  · exact ⟨fun hp => absurd hp (ne_pop_of_isRdsr hi), fun _ => hv, fun _ hr => absurd (hi.symm.trans hr) nofun⟩
  · exact ⟨fun hp => absurd hp hpop, fun hr => absurd (hr.symm.trans hrdsr) nofun, fun _ _ => hnone⟩

end Sys2Proof.Machine
end

section
/-! The encoding family, the pseudo-operation RUN (R92): each EMIT takes the bytes of a CIF from the port FIFOs (R133),
so the bound on its ASMs is never what ends it. -/
namespace Sys2Proof.Machine

/-- A CIF holds at least one byte: it has a slice of subchannel 1, of at least one capacity unit (R133). -/
theorem State.cifLen_pos {s : State} (hv : s.ValidConfig) (c : Nat) : 0 < s.cifLen c := by
  have ⟨_, _, ⟨hone, _⟩, hpos, _⟩ := hv
  have hsize : 1 ≤ (s.sizeReg (1 - 1)).toInt := hpos 0 hone
  have hneed : s.need 1 c = s.slot 1 := s.need_sub (Nat.le_refl 1) c
  have hslot : (s.slot 1 : Int) = 8 * (s.sizeReg (1 - 1)).toInt := State.slot_of_validConfig hv (Nat.le_refl 1) hone
  exact List.sum_pos_iff_exists_pos_nat.2
    ⟨s.need 1 c, List.mem_map_of_mem ((s.mem_portNumbers 1).2 hone), by omega⟩

/-- Two sums of naturals over one list add up term by term. -/
theorem sum_map_add_of_forall {α : Type} {f g k : α → Nat} {l : List α} (h : ∀ a ∈ l, f a + g a = k a) :
    (l.map f).sum + (l.map g).sum = (l.map k).sum := by
  induction l with
  | nil => rfl
  | cons a l ih =>
    obtain ⟨ha, hl⟩ := List.forall_mem_cons.1 h
    have hsum := ih hl
    simp only [List.map_cons, List.sum_cons]
    omega

theorem State.silent_buffered (s : State) : s.silent.buffered = s.buffered := rfl

/-- EMIT takes the bytes of the whole CIF from the port FIFOs (R135). -/
theorem State.buffered_emit {s : State} (ha : s.AllReady) :
    s.emit.buffered + s.cifLen s.cifctr.toNat = s.buffered := by
  refine sum_map_add_of_forall fun p hp => ?_
  have hp : p ≤ s.numSub := (s.mem_portNumbers p).1 hp
  have hready : s.Ready p := ha p hp
  rw [State.emit_fifo, if_pos hp, List.length_drop]
  exact Nat.sub_add_cancel hready

/-- RUN performs ASMs only (R92). -/
theorem eq_asm_of_mem_asmWhileEnabled {fuel : Nat} {s : State} {i : Instr} (h : i ∈ asmWhileEnabled fuel s) :
    i = .asm := by
  induction fuel generalizing s with
  | zero => cases h
  | succ fuel ih =>
    rw [asmWhileEnabled] at h
    split at h
    · rcases List.mem_cons.1 h with rfl | h
      · rfl
      · exact ih h
    · cases h
    · cases h

/-- An ASM that has a step is performed, and the rest of RUN after it. -/
theorem execAll_asmWhileEnabled_succ {s t : State} (h : exec .asm s = .next t) (fuel : Nat) :
    execAll (asmWhileEnabled (fuel + 1) s) s = execAll (asmWhileEnabled fuel t) t := by
  simp only [asmWhileEnabled, h, execAll]

/-- Where ASM is held RUN performs nothing. -/
theorem execAll_asmWhileEnabled_held {s : State} (h : ∀ u, exec .asm s ≠ .next u) (fuel : Nat) :
    execAll (asmWhileEnabled fuel s) s = .next s := by
  cases fuel with
  | zero => rfl
  | succ fuel =>
    rw [asmWhileEnabled]
    split
    · next hx => exact absurd hx (h _)
    · rfl
    · rfl

/-- RUN with a bound above the buffered bytes ends where ASM is held: an EMIT leaves fewer of them, after an END and
after a STALL ASM has no step. -/
theorem asmWhileEnabled_ends (fuel : Nat) {s : State} (hs : s.Inv) (hl : s.life = .run) (hf : s.buffered < fuel) :
    ∃ t, execAll (asmWhileEnabled fuel s) s = .next t ∧ ∀ u, exec .asm t ≠ .next u := by
  induction fuel generalizing s with
  | zero => exact absurd hf (Nat.not_lt_zero _)
  | succ fuel ih =>
    by_cases hx : ∃ t, exec .asm s = .next t
    · obtain ⟨t, hx⟩ := hx
      rw [execAll_asmWhileEnabled_succ hx]
      obtain ⟨-, ⟨ha, hr, rfl⟩ | ⟨-, rfl⟩⟩ := execAsm_next hx
      · obtain ⟨hvalid, -⟩ := hs.valid (.inl hl)
        have hpos : 0 < s.cifLen s.cifctr.toNat := State.cifLen_pos hvalid _
        have hsum := State.buffered_emit ha
        exact ih (hs.emit hl ha hr).silent hl (by rw [State.silent_buffered]; omega)
      · have hended : s.raiseEndOfStream.silent.life ≠ .run := nofun
        have hheld : ∀ u, exec .asm s.raiseEndOfStream.silent ≠ .next u := by
          rw [exec_asm_notRunning hended]
          exact nofun
        exact ⟨_, execAll_asmWhileEnabled_held hheld fuel, hheld⟩
    · have hheld : ∀ u, exec .asm s ≠ .next u := fun u hu => hx ⟨u, hu⟩
      exact ⟨s, execAll_asmWhileEnabled_held hheld _, hheld⟩

/-- Settles O31: RUN's bound is one more than the buffered bytes. -/
theorem pseudoRunEndsWhereAsmIsHeld : Obligations.PseudoRunEndsWhereAsmIsHeld := by
  unfold Obligations.PseudoRunEndsWhereAsmIsHeld
  intro s hs hl
  obtain ⟨t, hrun, hheld⟩ := asmWhileEnabled_ends (s.buffered + 1) hs hl (Nat.lt_succ_self _)
  exact ⟨t, hrun, fun _ hi => eq_asm_of_mem_asmWhileEnabled hi, hheld⟩

end Sys2Proof.Machine
end

section
/-! The configuration family (spec/40_configuration.md), the three operations that write a configuration register (R100 to
R103): the register each writes in IDLE, and the identity step outside it. -/
namespace Sys2Proof.Machine

/-- Outside IDLE a CFG operation is performed and only clears `response` (R100). -/
theorem exec_cfg_ignored {i : Instr} {s : State} (hi : isCfg i = true) (hl : s.life ≠ .idle) :
    exec i s = .next s.silent := by
  cases i with
  | cfgMode m => exact execCfgMode_ignored m s hl
  | cfgCount n => exact execCfgCount_ignored n s hl
  | cfgSize v => exact execCfgSize_ignored v s hl
  | cfgCommit => exact execCfgCommit_ignored s hl
  | _ => cases hi

/-- LISTLEN counts up to 65535 and stays there (R24, R103). -/
theorem bumpListLen_toNat (l : BitVec 16) : (bumpListLen l).toNat = min (l.toNat + 1) 65535 := by
  rw [bumpListLen, BitVec.toNat_ofNat]
  exact Nat.mod_eq_of_lt (by omega)

section appendSize

variable (s : State) (v : BitVec 16)

/-- An appended size writes SIZE and LISTLEN only (R103). -/
theorem State.appendSize_frame :
    s.appendSize v = { s with sizes := (s.appendSize v).sizes, listLen := (s.appendSize v).listLen } := by
  unfold State.appendSize
  split <;> rfl

/-- A size appended to a list that is not full is stored at SIZE[LISTLEN] (R103). -/
theorem State.appendSize_sizeReg_same (hs : s.Shape) (h : s.listLen.toNat < s.hw.nsubMax) :
    (s.appendSize v).sizeReg s.listLen.toNat = v := by
  obtain ⟨-, hlen⟩ := hs
  rw [State.sizeReg, State.appendSize_sizes, if_pos h, List.getD_eq_getElem?_getD,
    List.getElem?_set_self (hlen ▸ h), Option.getD_some]

/-- Every other size stays (R103). -/
theorem State.appendSize_sizeReg_ne {i : Nat} (h : i ≠ s.listLen.toNat) :
    (s.appendSize v).sizeReg i = s.sizeReg i := by
  rw [State.sizeReg, State.appendSize_sizes, State.sizeReg]
  split
  · rw [List.getD_eq_getElem?_getD, List.getElem?_set_ne (Ne.symm h), List.getD_eq_getElem?_getD]
  · rfl

/-- A size past a full list is counted and not stored (R103). -/
theorem State.appendSize_sizes_of_full (h : s.hw.nsubMax ≤ s.listLen.toNat) :
    (s.appendSize v).sizes = s.sizes := by
  rw [State.appendSize_sizes, if_neg (Nat.not_lt.2 h)]

end appendSize

/-- Settles O10: in IDLE the register is written, elsewhere the step is the identity. -/
theorem cfgModeAndCountWrite : Obligations.CfgModeAndCountWrite := by
  unfold Obligations.CfgModeAndCountWrite
  intro s
  by_cases hl : s.life = .idle
  · simp only [if_pos hl]
    exact ⟨fun m => ⟨_, execCfgMode_idle m s hl, rfl⟩, fun n => ⟨_, execCfgCount_idle n s hl, rfl⟩⟩
  · simp only [if_neg hl]
    exact ⟨fun m => ⟨_, execCfgMode_ignored m s hl, rfl⟩, fun n => ⟨_, execCfgCount_ignored n s hl, rfl⟩⟩

/-- Settles O12: each is the identity step of R100. -/
theorem cfgOutsideIdleIgnored : Obligations.CfgOutsideIdleIgnored := by
  unfold Obligations.CfgOutsideIdleIgnored
  exact fun s _ hl hi => ⟨s.silent, exec_cfg_ignored hi hl, rfl⟩

/-- Settles O11, by what appending a size does to LISTLEN, to SIZE and to the rest. -/
theorem cfgSizeAppends : Obligations.CfgSizeAppends := by
  unfold Obligations.CfgSizeAppends
  refine ⟨fun s v hl => ⟨s.silent, execCfgSize_ignored v s hl, rfl⟩, fun s v hl hs => ?_⟩
  exact ⟨(s.appendSize v).silent, execCfgSize_idle v s hl, bumpListLen_toNat s.listLen,
    s.appendSize_sizeReg_same v hs, fun i hi => s.appendSize_sizeReg_ne v hi, s.appendSize_sizes_of_full v,
    congrArg State.silent (s.appendSize_frame v)⟩

end Sys2Proof.Machine
end

section
/-! The configuration family, CFG_COMMIT (R104 to R111): the first failing check in each case, and that validation passes
exactly on the valid configurations. -/
namespace Sys2Proof.Machine

section configFailure

variable {s : State}

/-- Check 4 fails iff not every size of the list is positive (R108). -/
theorem State.someSizeNonpositive_iff (s : State) :
    s.someSizeNonpositive = true ↔ ¬∀ i, i < s.numSub → 0 < (s.sizeReg i).toInt := by
  simp [State.someSizeNonpositive]

/-- Check 1 (R105). -/
theorem State.configFailure_modeInvalid (h : ¬s.hw.isMode s.mode = true) : s.configFailure = some .modeInvalid :=
  if_pos (Bool.not_eq_true _ ▸ h)

section laterChecks

variable (hmode : s.hw.isMode s.mode = true)
include hmode

/-- Check 2 (R106). -/
theorem State.configFailure_countMismatch (h : s.count ≠ s.listLen) : s.configFailure = some .countMismatch := by
  simp [State.configFailure, hmode, h]

variable (hlist : s.count = s.listLen)
include hlist

/-- Check 3 (R107). -/
theorem State.configFailure_countRange (h : ¬(1 ≤ s.numSub ∧ s.numSub ≤ s.hw.nsubMax)) :
    s.configFailure = some .countRange := by
  have hrange : s.numSub = 0 ∨ s.hw.nsubMax < s.numSub := by omega
  simp [State.configFailure, hmode, hlist, hrange]

variable (hcount : 1 ≤ s.numSub ∧ s.numSub ≤ s.hw.nsubMax)
include hcount

/-- Check 4 (R108). -/
theorem State.configFailure_sizeNonpositive (h : ¬∀ i, i < s.numSub → 0 < (s.sizeReg i).toInt) :
    s.configFailure = some .sizeNonpositive := by
  have hrange : ¬(s.numSub = 0 ∨ s.hw.nsubMax < s.numSub) := by omega
  have hsize : s.someSizeNonpositive = true := s.someSizeNonpositive_iff.2 h
  simp [State.configFailure, hmode, hlist, hrange, hsize]

variable (hpos : ∀ i, i < s.numSub → 0 < (s.sizeReg i).toInt)
include hpos

/-- Check 5 (R109). -/
theorem State.configFailure_capacityExceeded (h : ¬s.allocatedCUs ≤ (s.hw.cap s.mode : Int)) :
    s.configFailure = some .capacityExceeded := by
  have hrange : ¬(s.numSub = 0 ∨ s.hw.nsubMax < s.numSub) := by omega
  have hsize : ¬s.someSizeNonpositive = true := fun hn => s.someSizeNonpositive_iff.1 hn hpos
  simp [State.configFailure, hmode, hlist, hrange, hsize, Int.not_le.1 h]

/-- All checks pass (R110). -/
theorem State.configFailure_none (h : s.allocatedCUs ≤ (s.hw.cap s.mode : Int)) : s.configFailure = none := by
  have hrange : ¬(s.numSub = 0 ∨ s.hw.nsubMax < s.numSub) := by omega
  have hsize : ¬s.someSizeNonpositive = true := fun hn => s.someSizeNonpositive_iff.1 hn hpos
  simp [State.configFailure, hmode, hlist, hrange, hsize, h]

end laterChecks

/-- Validation passes exactly on the valid configurations (R104, R41 item 3). -/
theorem State.configFailure_none_iff (s : State) : s.configFailure = none ↔ s.ValidConfig := by
  refine ⟨State.validConfig_of_configFailure_none, ?_⟩
  rintro ⟨hmode, hlist, hcount, hpos, hfits⟩
  exact State.configFailure_none hmode hlist hcount hpos hfits

/-- CFG_COMMIT in IDLE when a check fails (R104, R178). -/
theorem exec_cfgCommit_fails {e : ConfigError} (hl : s.life = .idle) (he : s.configFailure = some e) :
    exec .cfgCommit s = .next (s.raiseConfigurationError e).silent := by
  have hc : s.construct = s.raiseConfigurationError e := by rw [State.construct, he]
  exact hc ▸ execCfgCommit_idle s hl

/-- CFG_COMMIT in IDLE when all checks pass (R104, R110). -/
theorem exec_cfgCommit_passes (hl : s.life = .idle) (hnone : s.configFailure = none) :
    exec .cfgCommit s = .next { s with life := .run }.silent := by
  have hc : s.construct = { s with life := .run } := by rw [State.construct, hnone]
  exact hc ▸ execCfgCommit_idle s hl

end configFailure

/-- Settles O13: for each clause the outcome of validation under its premises. -/
theorem commitValidatesInOrder : Obligations.CommitValidatesInOrder := by
  unfold Obligations.CommitValidatesInOrder
  intro s hl
  rw [← Params_isMode_iff]
  refine ⟨fun hmode => ⟨_, exec_cfgCommit_fails hl (State.configFailure_modeInvalid hmode), rfl⟩,
    fun hmode hlist => ⟨_, exec_cfgCommit_fails hl (State.configFailure_countMismatch hmode hlist), rfl⟩,
    fun hmode hlist hcount => ⟨_, exec_cfgCommit_fails hl (State.configFailure_countRange hmode hlist hcount), rfl⟩,
    fun hmode hlist hcount hpos => ?_, fun hmode hlist hcount hpos hfits => ?_,
    fun hmode hlist hcount hpos hfits => ?_⟩
  · exact ⟨_, exec_cfgCommit_fails hl (State.configFailure_sizeNonpositive hmode hlist hcount hpos), rfl⟩
  · exact ⟨_, exec_cfgCommit_fails hl (State.configFailure_capacityExceeded hmode hlist hcount hpos hfits), rfl⟩
  · exact ⟨_, exec_cfgCommit_passes hl (State.configFailure_none hmode hlist hcount hpos hfits), rfl⟩

end Sys2Proof.Machine
end

section
/-! The configuration family, the pseudo-operation CONFIG (R92, R112): the configuration registers after its CFG_MODE,
CFG_COUNT and CFG_SIZEs, and what the validation says of the list they were given. -/
namespace Sys2Proof

/-- The source's constructor accepts mode `m` and the sizes `l` (R112). -/
def Params.Accepts (P : Params) (m : BitVec 8) (l : List (BitVec 16)) : Prop :=
  (∃ r ∈ P.modes, r.id = m) ∧ 1 ≤ l.length ∧ l.length ≤ P.nsubMax ∧ (∀ v ∈ l, 0 < v.toInt) ∧
    (P.ficCu m : Int) + (l.map (fun v => v.toInt)).sum ≤ (P.cap m : Int)

namespace Machine

/-- On hardware `P` mode `m`, count `n` and the sizes `l` have been entered since the reset, and nothing committed. -/
structure State.Entered (s : State) (P : Params) (m : BitVec 8) (n : BitVec 16) (l : List (BitVec 16)) : Prop where
  hw : s.hw = P
  life : s.life = .idle
  mode : s.mode = m
  count : s.count = n
  out : s.out = []
  shape : s.Shape
  listLen : s.listLen.toNat = l.length
  sizeReg : ∀ i v, i < P.nsubMax → l[i]? = some v → s.sizeReg i = v

namespace State.Entered

variable {P : Params} {m : BitVec 8} {n : BitVec 16} {l : List (BitVec 16)} {s : State}

/-- Before the first CFG_SIZE (R40, R101, R102). -/
theorem nil (P : Params) (m : BitVec 8) (n : BitVec 16) :
    State.Entered { { State.resetWith P with mode := m }.silent with count := n }.silent P m n [] :=
  ⟨rfl, rfl, rfl, rfl, rfl, State.resetWith_shape P, rfl, nofun⟩

/-- One CFG_SIZE more (R103). -/
theorem appendSize (h : s.Entered P m n l) (v : BitVec 16) (hlen : l.length < 65535) :
    State.Entered (s.appendSize v).silent P m n (l ++ [v]) := by
  have hcount := h.listLen
  have heff : Effect (.cfgSize v) s (s.appendSize v).silent := .cfgSize s v h.life
  obtain ⟨hshape, hhw⟩ := Effect_shape heff h.shape
  refine ⟨hhw.trans h.hw, (s.appendSize_life v).trans h.life, (s.appendSize_mode v).trans h.mode,
    (s.appendSize_count v).trans h.count, (s.appendSize_out v).trans h.out, hshape, ?_, fun i w hi hw => ?_⟩
  · rw [State.silent_listLen, State.appendSize_listLen, bumpListLen_toNat, hcount, List.length_append,
      List.length_singleton]
    omega
  · rw [State.silent_sizeReg]
    by_cases hlast : i = l.length
    · subst hlast
      obtain rfl : v = w := by simpa using hw
      exact hcount ▸ s.appendSize_sizeReg_same v h.shape (by rw [hcount, h.hw]; exact hi)
    · have hsome : i < (l ++ [v]).length := (List.getElem?_eq_some_iff.1 hw).1
      rw [List.length_append, List.length_singleton] at hsome
      rw [List.getElem?_append_left (by omega)] at hw
      rw [s.appendSize_sizeReg_ne v (by omega)]
      exact h.sizeReg i w hi hw

/-- The CFG_SIZEs of a list, one after another. -/
theorem execAll_cfgSize (more : List (BitVec 16)) (h : s.Entered P m n l) (hlen : (l ++ more).length ≤ 65535) :
    ∃ t, execAll (more.map Instr.cfgSize) s = .next t ∧ t.Entered P m n (l ++ more) := by
  induction more generalizing l s with
  | nil => exact ⟨s, rfl, (List.append_nil l).symm ▸ h⟩
  | cons v more ih =>
    rw [List.append_cons] at hlen ⊢
    have hlt : l.length < 65535 := by simp at hlen; omega
    have hx : exec (.cfgSize v) s = .next (s.appendSize v).silent := execCfgSize_idle v s h.life
    simp only [List.map_cons, execAll, hx]
    exact ih (h.appendSize v hlt) hlen

end State.Entered

/-- CONFIGN on a hardware just reset commits the entered registers (R92). -/
theorem execAll_pseudoConfigN (P : Params) (m : BitVec 8) (n : BitVec 16) (l : List (BitVec 16))
    (hlen : l.length ≤ 65535) :
    ∃ t : State, execAll (pseudoConfigN m n l) (State.resetWith P) = .next t.construct.silent ∧
      t.Entered P m n l := by
  obtain ⟨t, ht, hent⟩ := (State.Entered.nil P m n).execAll_cfgSize l hlen
  refine ⟨t, ?_, hent⟩
  have hcommit : exec .cfgCommit t = .next t.construct.silent := execCfgCommit_idle t hent.life
  have hpre : execAll ([.cfgMode m, .cfgCount n] ++ l.map Instr.cfgSize) (State.resetWith P) = .next t := ht
  rw [pseudoConfigN, execAll_append, hpre]
  simp only [execAll, hcommit]

namespace State.Entered

variable {P : Params} {m : BitVec 8} {l : List (BitVec 16)} {s : State}

/-- COUNT is the length of the list that CFG_COUNT was given (R92). -/
theorem numSub_eq (h : s.Entered P m (BitVec.ofNat 16 l.length) l) (hlen : l.length ≤ 65535) :
    s.numSub = l.length := by
  rw [State.numSub, h.count, BitVec.toNat_ofNat]
  exact Nat.mod_eq_of_lt (by omega)

/-- The size registers of a list that NSUB_MAX does not cut off hold the list. -/
theorem map_sizeReg {n : BitVec 16} (h : s.Entered P m n l) (hmax : l.length ≤ P.nsubMax) :
    (List.range l.length).map s.sizeReg = l := by
  refine List.ext_getElem (by simp) fun i _ hi => ?_
  rw [List.getElem_map, List.getElem_range]
  exact h.sizeReg i l[i] (by omega) (List.getElem?_eq_getElem hi)

/-- Validation passes iff the constructor accepts the list (R104, R112). -/
theorem validConfig_iff (h : s.Entered P m (BitVec.ofNat 16 l.length) l) (hlen : l.length ≤ 65535) :
    s.ValidConfig ↔ P.Accepts m l := by
  have hnum : s.numSub = l.length := h.numSub_eq hlen
  have hlist : s.count = s.listLen := BitVec.eq_of_toNat_eq (hnum.trans h.listLen.symm)
  by_cases hmax : l.length ≤ P.nsubMax
  · have hregs : (List.range l.length).map s.sizeReg = l := h.map_sizeReg hmax
    have hpos : (∀ i, i < l.length → 1 ≤ (s.sizeReg i).toInt) ↔ ∀ v ∈ l, 0 < v.toInt := by
      conv => rhs; rw [← hregs]
      simp only [List.forall_mem_map, List.mem_range]
      exact Iff.rfl
    have hsum : ((List.range l.length).map (fun i => (s.sizeReg i).toInt)).sum =
        (l.map (fun v => v.toInt)).sum := by
      conv => rhs; rw [← hregs, List.map_map]
      rfl
    simp only [State.ValidConfig, State.allocatedCUs, Params.Accepts, hnum, hlist, hsum, hpos, h.hw, h.mode,
      Params_isMode_iff, true_and, and_assoc]
  · refine iff_of_false (fun hv => ?_) (fun ha => ?_)
    · obtain ⟨-, -, ⟨-, hle⟩, -⟩ := hv
      exact hmax (by rwa [hnum, h.hw] at hle)
    · obtain ⟨-, -, hle, -⟩ := ha
      exact hmax hle

end State.Entered

/-- Settles O15: the entered registers are committed, and validation passes iff the constructor accepts the list. -/
theorem constructorContract : Obligations.ConstructorContract := by
  unfold Obligations.ConstructorContract
  intro P m sizes _ hlen
  obtain ⟨u, hx, hent⟩ := execAll_pseudoConfigN P m (BitVec.ofNat 16 sizes.length) sizes hlen
  have hiff : u.ValidConfig ↔ P.Accepts m sizes := hent.validConfig_iff hlen
  refine ⟨u.construct.silent, hx, ?_⟩
  rcases u.construct_cases with ⟨e, he, hc⟩ | ⟨hnone, hc⟩ <;> rw [hc]
  · have hinvalid : ¬u.ValidConfig := fun hv => by simp [u.configFailure_none_iff.2 hv] at he
    exact ⟨iff_of_false nofun (mt hiff.2 hinvalid), fun _ => ⟨rfl, hent.out⟩, nofun⟩
  · have hvalid : u.ValidConfig := u.configFailure_none_iff.1 hnone
    have hnum : u.numSub = sizes.length := hent.numSub_eq hlen
    have haccepts : P.Accepts m sizes := hiff.1 hvalid
    have ⟨_, _, hmax, _⟩ := haccepts
    refine ⟨iff_of_true rfl haccepts, fun hne => absurd rfl hne, fun _ => ⟨hent.mode, hnum, fun i v hv => ?_⟩⟩
    have hi : i < sizes.length := (List.getElem?_eq_some_iff.1 hv).1
    have hslot := State.slot_of_validConfig hvalid (Nat.succ_pos i) (p := i + 1) (by omega)
    rw [Nat.add_sub_cancel, hent.sizeReg i v (by omega) hv] at hslot
    exact hslot

end Machine
end Sys2Proof
end

section
/-! The stream-input family (spec/41_stream_input.md), PUSH and EOS (R115, R116): the one port each writes, and the
condition each is held for. -/
namespace Sys2Proof.Machine

section held

variable {s : State} {p : BitVec 8} (b : Byte)

/-- A PUSH on a port above N is held (R115). -/
theorem execPush_noPort (hl : s.life = .run) (hp : s.numSub < p.toNat) :
    execPush p b s = .fault .heldNoPort := by
  simp [execPush, hl, hp]

/-- A PUSH on an ended port is held (R115). -/
theorem execPush_ended (hl : s.life = .run) (hp : p.toNat ≤ s.numSub) (he : s.eosf p.toNat = true) :
    execPush p b s = .fault .heldEnded := by
  simp [execPush, hl, Nat.not_lt.2 hp, he]

/-- A PUSH on a full FIFO is held (R115). -/
theorem execPush_full (hl : s.life = .run) (hp : p.toNat ≤ s.numSub) (he : s.eosf p.toNat = false)
    (hf : ¬s.NotFull p.toNat) : execPush p b s = .fault .heldFull := by
  simp [execPush, hl, Nat.not_lt.2 hp, he, mt (s.hasSpace_iff p.toNat).1 hf]

/-- An EOS on a port above N is held (R116). -/
theorem execEos_noPort (hl : s.life = .run) (hp : s.numSub < p.toNat) : execEos p s = .fault .heldNoPort := by
  simp [execEos, hl, hp]

end held

/-- A port written with its own state is left as it was, also where there is none. -/
theorem State.setPort_port_self (s : State) (p : Nat) : s.setPort p (s.port p) = s := by
  have hports : s.ports.set p (s.port p) = s.ports := by
    refine List.ext_getElem (by simp) fun i hi hi' => ?_
    by_cases hp : p = i
    · subst hp
      simp [State.port, List.getD_eq_getElem?_getD, hi']
    · exact List.getElem_set_ne hp hi
  rw [State.setPort, hports]

/-- EOS on a port that has ended leaves the state (R116). -/
theorem State.setEos_of_eosf {s : State} {p : Nat} (h : s.eosf p = true) : s.setEos p = s := by
  have hport : { s.port p with eosf := true } = s.port p := by rw [← h, State.eosf]
  rw [State.setEos, hport, s.setPort_port_self]

/-- Settles O16: an enabled PUSH writes port `p` only, and of that port the FIFO only. -/
theorem pushAppendsOneByte : Obligations.PushAppendsOneByte := by
  unfold Obligations.PushAppendsOneByte
  intro s p b hl hp hex he hf
  have hfifo := s.pushByte_fifo p.toNat p.toNat b hex
  rw [if_pos rfl] at hfifo
  exact ⟨(s.pushByte p.toNat b).silent, execPush_enabled p b s hl hp he hf, hfifo, s.pushByte_eosf _ _ b,
    s.pushByte_resid _ _ b, s.pushByte_prem _ _ b, fun q hq => s.pushByte_port_ne _ q b hq, rfl⟩

/-- Settles O17: an enabled EOS writes port `p` only, and of that port EOSF only; after it the port has ended, so that a
second EOS finds the flag as it would leave it. -/
theorem eosSetsTheFlag : Obligations.EosSetsTheFlag := by
  unfold Obligations.EosSetsTheFlag
  intro s p hl hp hex
  have heosf := s.setEos_eosf p.toNat p.toNat hex
  rw [if_pos rfl] at heosf
  have hagain : exec (.eos p) (s.setEos p.toNat).silent = .next ((s.setEos p.toNat).silent.setEos p.toNat).silent :=
    execEos_enabled p _ hl hp
  rw [State.setEos_of_eosf (s := (s.setEos p.toNat).silent) heosf] at hagain
  exact ⟨(s.setEos p.toNat).silent, execEos_enabled p s hl hp, heosf, s.setEos_fifo _ _, s.setEos_resid _ _,
    s.setEos_prem _ _, fun q hq => s.setEos_port_ne _ q hq, rfl, hagain⟩

/-- Settles O18: each operation has a step when it is enabled and only then, and else one stop for each condition. -/
theorem inputEnabledExactlyWhen : Obligations.InputEnabledExactlyWhen := by
  unfold Obligations.InputEnabledExactlyWhen
  intro s p b
  refine ⟨⟨?_, ?_⟩, ⟨?_, ?_⟩, fun hl => ⟨exec_push_notRunning hl p b, exec_eos_notRunning hl p⟩,
    fun hl hp => ⟨execPush_noPort b hl hp, execEos_noPort hl hp⟩, execPush_ended b, execPush_full b⟩
  · rintro ⟨t, ht⟩
    obtain ⟨hl, hp, he, hf, -⟩ := execPush_next ht
    exact ⟨hl, hp, he, hf⟩
  · rintro ⟨hl, hp, he, hf⟩
    exact ⟨_, execPush_enabled p b s hl hp he hf⟩
  · rintro ⟨t, ht⟩
    obtain ⟨hl, hp, -⟩ := execEos_next ht
    exact ⟨hl, hp⟩
  · rintro ⟨hl, hp⟩
    exact ⟨_, execEos_enabled p s hl hp⟩

end Sys2Proof.Machine
end

section
/-! The CIF-assembly family (spec/42_cif_assembly.md), the length of a CIF (R9, R133, R141): the FIC slice, if scheduled,
and the slots of the subchannels; the capacity of the mode bounds it, and the FIFOs can hold it. -/
namespace Sys2Proof.Machine

section lookups

variable {P : Params} {m : BitVec 8}

/-- A mode of MODES has slots of at least one byte for the FIC (R8). -/
theorem Params_fbs_pos (hb : P.RowsInBounds) (hm : P.isMode m = true) : 0 < P.fbs m := by
  obtain ⟨r, hmem, hrow⟩ := Params_row_of_isMode hm
  obtain ⟨-, ⟨hpos, -⟩, -⟩ := hb r hmem
  rw [Params_fbs_of_row hrow]
  exact hpos

/-- The FIFO of the FIC port can hold the FIC slot of a mode (R11). -/
theorem Params_capFic_holds_fbs (hc : P.CapFicSuffices) (hm : P.isMode m = true) : P.capFic.holds (P.fbs m) = true := by
  obtain ⟨r, hmem, hrow⟩ := Params_row_of_isMode hm
  rw [Params_fbs_of_row hrow]
  exact hc r hmem

/-- The FIFO of a subchannel can hold the capacity of a mode (R11). -/
theorem Params_capSub_holds_cap (hc : P.CapSubSuffices) (hm : P.isMode m = true) :
    P.capSub.holds (8 * P.cap m) = true := by
  obtain ⟨r, hmem, hrow⟩ := Params_row_of_isMode hm
  rw [Params_cap_of_row hrow]
  exact hc r hmem

/-- OUT can hold the capacity of a mode (R12). -/
theorem Params_outCap_holds_cap (hc : P.OutCapSuffices) (hm : P.isMode m = true) :
    P.outCap.holds (8 * P.cap m) = true := by
  obtain ⟨r, hmem, hrow⟩ := Params_row_of_isMode hm
  rw [Params_cap_of_row hrow]
  exact hc r hmem

/-- A scheduled FIC slice fits in the capacity units allocated to it (R9). -/
theorem Params_fbs_le_ficCu {c : Nat} (hs : P.sched m c = true) : P.fbs m ≤ 8 * P.ficCu m := by
  rw [Params_ficCu_of_hasFic ((Params_hasFic_iff P m).2 ⟨c, Params_sched_lt P m c hs, hs⟩)]
  omega

end lookups

section sums

variable {α : Type}

/-- A sum of naturals, read as an integer, of terms that are each known as an integer. -/
theorem natCast_sum_map_of_forall {f : α → Nat} {g : α → Int} {l : List α} (h : ∀ a ∈ l, (f a : Int) = g a) :
    ((l.map f).sum : Int) = (l.map g).sum := by
  induction l with
  | nil => rfl
  | cons a l ih =>
    obtain ⟨ha, hl⟩ := List.forall_mem_cons.1 h
    rw [List.map_cons, List.sum_cons, List.map_cons, List.sum_cons, Int.natCast_add, ha, ih hl]

/-- A common factor of the terms of a sum of integers is a factor of the sum. -/
theorem sum_map_mul_left_int (k : Int) (g : α → Int) (l : List α) :
    (l.map (fun a => k * g a)).sum = k * (l.map g).sum := by
  induction l with
  | nil => exact (Int.mul_zero k).symm
  | cons a l ih => rw [List.map_cons, List.sum_cons, List.map_cons, List.sum_cons, ih, Int.mul_add]

end sums

section cifLen

variable {s : State}

/-- `cif_len` is the FIC slice and the slots of the subchannels, which every CIF carries (R9, R126, R127). -/
theorem State.cifLen_eq_fic_add_slots (s : State) (c : Nat) :
    s.cifLen c = s.need 0 c + ((List.range s.numSub).map (fun i => s.slot (i + 1))).sum := by
  rw [State.cifLen, State.portNumbers, List.range_succ_eq_map, List.map_cons, List.sum_cons, List.map_map]
  rfl

/-- Two CIFs of one schedule value have one length (R141). -/
theorem State.cifLen_eq_of_sched {c d : Nat} (h : s.hw.sched s.mode c = s.hw.sched s.mode d) :
    s.cifLen c = s.cifLen d := by
  simp only [State.cifLen_eq_fic_add_slots, State.need_zero, h]

/-- The FIC contributes bytes to exactly the CIFs whose schedule asks for it (R127). -/
theorem State.need_zero_ne_zero_iff (hpos : 0 < s.hw.fbs s.mode) (c : Nat) :
    s.need 0 c ≠ 0 ↔ s.hw.sched s.mode c = true := by
  simp [State.need_zero, Nat.ne_of_gt hpos]

/-- Two CIFs have one length only if both carry the FIC or neither does (R141). -/
theorem State.sched_eq_of_cifLen {c d : Nat} (hpos : 0 < s.hw.fbs s.mode) (h : s.cifLen c = s.cifLen d) :
    s.hw.sched s.mode c = s.hw.sched s.mode d := by
  rw [s.cifLen_eq_fic_add_slots, s.cifLen_eq_fic_add_slots] at h
  have hneed : s.need 0 c = s.need 0 d := Nat.add_right_cancel h
  rw [Bool.eq_iff_iff, ← State.need_zero_ne_zero_iff hpos, ← State.need_zero_ne_zero_iff hpos, hneed]

/-- No slice is longer than the CIF, which ends where the slice after the last would start (R9). -/
theorem State.need_le_cifLen {p : Nat} (hp : p ≤ s.numSub) (c : Nat) : s.need p c ≤ s.cifLen c :=
  calc s.need p c ≤ s.off p c + s.need p c := Nat.le_add_left _ _
    _ = s.off (p + 1) c := (s.off_succ p c).symm
    _ ≤ s.off (s.numSub + 1) c := s.off_mono c (Nat.succ_le_succ hp)

/-- The slots of the subchannels, in a valid configuration, are 8 bytes for every capacity unit of their sizes (R9). -/
theorem State.sum_slots_of_validConfig (hv : s.ValidConfig) :
    (((List.range s.numSub).map (fun i => s.slot (i + 1))).sum : Int) =
      ((List.range s.numSub).map (fun i => 8 * (s.sizeReg i).toInt)).sum :=
  natCast_sum_map_of_forall fun i hi => State.slot_of_validConfig hv (Nat.succ_pos i) (List.mem_range.1 hi)

/-- R141's formula for `cif_len`. -/
theorem State.cifLen_of_validConfig (hv : s.ValidConfig) (c : Nat) :
    (s.cifLen c : Int) = (if s.hw.sched s.mode c = true then (s.hw.fbs s.mode : Int) else 0) +
      ((List.range s.numSub).map (fun i => 8 * (s.sizeReg i).toInt)).sum := by
  rw [s.cifLen_eq_fic_add_slots, Int.natCast_add, State.sum_slots_of_validConfig hv, State.need_zero]
  by_cases hsched : s.hw.sched s.mode c = true
  · rw [if_pos hsched, if_pos hsched]
  · rw [if_neg hsched, if_neg hsched]
    rfl

/-- Every CIF of a valid configuration carries the slot of subchannel 1, of at least one capacity unit (R133). -/
theorem State.eight_le_cifLen (hv : s.ValidConfig) (c : Nat) : 8 ≤ s.cifLen c := by
  have ⟨_, _, ⟨hone, _⟩, hpos, _⟩ := hv
  have hsize : 1 ≤ (s.sizeReg (1 - 1)).toInt := hpos 0 hone
  have hslot : (s.slot 1 : Int) = 8 * (s.sizeReg (1 - 1)).toInt := State.slot_of_validConfig hv (Nat.le_refl 1) hone
  have hneed : s.need 1 c = s.slot 1 := s.need_sub (Nat.le_refl 1) c
  have hle := State.need_le_cifLen hone c
  omega

/-- No CIF of a valid configuration is longer than the mode's capacity, as the allocated units are not more (R109,
R133). -/
theorem State.cifLen_le_cap (hv : s.ValidConfig) (c : Nat) : s.cifLen c ≤ 8 * s.hw.cap s.mode := by
  have ⟨_, _, _, _, hcap⟩ := hv
  have hlen := State.cifLen_of_validConfig hv c
  rw [sum_map_mul_left_int] at hlen
  rw [State.allocatedCUs] at hcap
  split at hlen
  · next hs =>
    have hfic := Params_fbs_le_ficCu hs
    omega
  · omega

end cifLen

section configured

variable {s : State} (hs : s.Inv) (hc : s.Configured)
include hs hc

/-- An empty OUT has room for a CIF (R133). -/
theorem State.Inv.hasRoom_of_out_nil (ho : s.out = []) : s.HasRoom := by
  obtain ⟨hv, -⟩ := hs.valid hc
  obtain ⟨-, -, -, -, -, -, hout⟩ := hs.admissible
  refine s.room_iff.1 (Capacity_holds_mono ?_ (Params_outCap_holds_cap hout hv.1))
  rw [ho, List.length_nil, Nat.zero_add]
  exact State.cifLen_le_cap hv _

/-- The FIFO of a port can hold what a CIF needs of it (R11, R133). -/
theorem State.Inv.capOf_holds_need {p : Nat} (hp : p ≤ s.numSub) (c : Nat) :
    (s.capOf p).holds (s.need p c) = true := by
  obtain ⟨hv, -⟩ := hs.valid hc
  obtain ⟨-, -, -, -, hfic, hsub, -⟩ := hs.admissible
  rcases Nat.eq_zero_or_pos p with rfl | hpos
  · refine Capacity_holds_mono ?_ (Params_capFic_holds_fbs hfic hv.1)
    rw [State.need_zero]
    split
    · exact Nat.le_refl _
    · exact Nat.zero_le _
  · rw [s.capOf_sub hpos]
    exact Capacity_holds_mono (Nat.le_trans (State.need_le_cifLen hp c) (State.cifLen_le_cap hv c))
      (Params_capSub_holds_cap hsub hv.1)

/-- A port with a full FIFO is ready (R133). -/
theorem State.Inv.ready_of_full {p : Nat} (hp : p ≤ s.numSub) (hf : ¬s.NotFull p) : s.Ready p := by
  refine Nat.le_of_not_lt fun hshort => hf fun cap hcap => ?_
  have hneed := (Capacity_holds_iff _ _).1 (hs.capOf_holds_need hc hp s.cifctr.toNat) cap hcap
  omega

end configured

/-- Settles O27: the bounds on the length from the allocated capacity units, the room from OUT_CAP, CAP_FIC and
CAP_SUB. -/
theorem cifLengthBounds : Obligations.CifLengthBounds := by
  unfold Obligations.CifLengthBounds
  intro s hs hc
  obtain ⟨hv, -⟩ := hs.valid hc
  exact ⟨fun c => ⟨State.eight_le_cifLen hv c, State.cifLen_le_cap hv c⟩, hs.hasRoom_of_out_nil hc,
    fun p hp => hs.ready_of_full hc hp⟩

/-- Settles O28: two lengths differ by the FIC slice only, which has at least one byte. -/
theorem constantLengthIffUniform : Obligations.ConstantLengthIffUniform := by
  unfold Obligations.ConstantLengthIffUniform
  intro s hs hc
  obtain ⟨hv, -⟩ := hs.valid hc
  obtain ⟨-, -, hrows, -⟩ := hs.admissible
  have hpos : 0 < s.hw.fbs s.mode := Params_fbs_pos hrows hv.1
  exact ⟨State.cifLen_of_validConfig hv,
    fun hconst c d hlc hld => State.sched_eq_of_cifLen hpos (hconst c d hlc hld),
    fun hsched c d hlc hld => State.cifLen_eq_of_sched (hsched c d hlc hld)⟩

end Sys2Proof.Machine
end

section
/-! The CIF-assembly family, the output and its end as a function of the inputs (R137, R142, R145): consequences of what
ties a reachable state to its history. -/
namespace Sys2Proof.Machine

section slots

variable (s : State)

/-- What a port contributes to one CIF more (R145). -/
theorem State.cum_succ_sub (p k : Nat) : s.cum p (k + 1) - s.cum p k = s.need p (k % s.cifsPerFrame) := by
  rw [s.cum_succ, Nat.add_sub_cancel_left]

/-- A port contributes whole slots to a CIF: one, or none (R9). -/
theorem State.slot_dvd_need (p c : Nat) : s.slot p ∣ s.need p c := by
  rcases Nat.eq_zero_or_pos p with rfl | hpos
  · rw [State.slot_zero, State.need_zero]
    split
    · exact Nat.dvd_refl _
    · exact Nat.dvd_zero _
  · exact ⟨1, by rw [s.need_sub hpos, Nat.mul_one]⟩

/-- A port contributes whole slots to any number of CIFs (R145). -/
theorem State.slot_dvd_cum (p k : Nat) : s.slot p ∣ s.cum p k := by
  induction k with
  | zero => exact Nat.dvd_zero _
  | succ k ih =>
    rw [s.cum_succ]
    exact Nat.dvd_add ih (s.slot_dvd_need p _)

/-- Under a uniform schedule every CIF has the length of the first (R142). -/
theorem State.cifStart_of_uniform (hpos : 0 < s.cifsPerFrame)
    (hu : ∀ c d, c < s.cifsPerFrame → d < s.cifsPerFrame → s.hw.sched s.mode c = s.hw.sched s.mode d) (k : Nat) :
    s.cifStart k = k * s.cifLen 0 := by
  induction k with
  | zero => rw [s.cifStart_zero, Nat.zero_mul]
  | succ k ih =>
    have hlen : s.cifLen (k % s.cifsPerFrame) = s.cifLen 0 :=
      State.cifLen_eq_of_sched (hu _ _ (Nat.mod_lt k hpos) hpos)
    rw [s.cifStart_succ, ih, hlen, Nat.succ_mul]

end slots

namespace Explains

variable {h : History} {s : State} (he : Explains h s)
include he

/-- After END every byte pushed on an ended port was emitted or discarded (R59, R137). -/
theorem length_of_ended (hl : s.life = .ended) {p : Nat} (hp : p ≤ s.numSub) (hend : s.eosf p = true) :
    (h.pushed p).length = s.cum p h.emits + (h.discarded p).length := by
  have hle := he.supplied (.inr hl) p hp
  have hkept := he.kept (.inr hl) p hp
  obtain ⟨hfifo, -, -⟩ := he.residual hl p hp hend
  rw [hfifo, List.nil_append] at hkept
  rw [← hkept, List.length_drop]
  omega

/-- A quiescent state in which an ended port is short for the next CIF has ended: in RUN ASM would end it (R145
item 3). -/
theorem ended_of_quiescent (hq : s.Quiescent)
    (hshort : ∃ p, p ≤ s.numSub ∧ s.eosf p = true ∧ (h.pushed p).length < s.cum p (h.emits + 1)) :
    s.life = .ended := by
  rcases hq with hl | ⟨hl, -, hheld⟩
  · exact hl
  · obtain ⟨p, hp, hend, hlt⟩ := hshort
    have hready : ¬s.Ready p := fun hr => Nat.not_le_of_lt hlt ((he.ready_iff hl hp).1 hr)
    exact absurd (execAsm_end s hl ⟨p, hp, hready, hend⟩) (hheld _)

end Explains

/-- Settles O50: a slice of the CIFs that explain the output is the bytes between two values of `cum`. -/
theorem outputIsTheCifsOfTheInputs : Obligations.OutputIsTheCifsOfTheInputs := by
  unfold Obligations.OutputIsTheCifsOfTheInputs
  intro P s h hP hr hc
  simp only [State.cum_succ_sub]
  exact (reachable_explains hP hr).output hc

/-- Settles O53: a quiescent state has neither a CIF left to emit nor an end left to take. -/
theorem quiescentMeansMaximal : Obligations.QuiescentMeansMaximal := by
  unfold Obligations.QuiescentMeansMaximal
  intro P s h hP hr hc
  have he := reachable_explains hP hr
  exact ⟨he.supplied hc, fun hq => ⟨fun k hk => he.le_emits_of_quiescent hq hk, he.endReason, he.ended_of_quiescent hq⟩⟩

/-- Settles O49: the bytes emitted from a port are whole slots, so the residual is a partial slot iff all the bytes pushed
are. -/
theorem prematureIffPartialSlotPushed : Obligations.PrematureIffPartialSlotPushed := by
  unfold Obligations.PrematureIffPartialSlotPushed
  intro P s h hP hr hl p hp hend
  have he := reachable_explains hP hr
  obtain ⟨-, -, hprem⟩ := he.residual hl p hp hend
  have hmod : (h.pushed p).length % s.slot p = (h.discarded p).length % s.slot p := by
    rw [he.length_of_ended hl hp hend, Nat.add_mod, Nat.mod_eq_zero_of_dvd (s.slot_dvd_cum p _), Nat.zero_add,
      Nat.mod_mod]
  rw [hprem, hmod]

/-- Settles O52: the output ends where the next CIF starts. -/
theorem outputIsWholeCifs : Obligations.OutputIsWholeCifs := by
  unfold Obligations.OutputIsWholeCifs
  intro P s h hP hr hc
  have hout : (h.popped ++ s.out).length = s.cifStart h.emits := (reachable_counted hP hr).output
  have hpos : 0 < s.cifsPerFrame := Nat.zero_lt_of_lt ((reachable_inv hP hr).cifctrBound hc)
  exact ⟨hout, fun hu => by rw [hout, s.cifStart_of_uniform hpos hu]⟩

end Sys2Proof.Machine
end

section
/-! The CIF-assembly family, ASM (R131 to R139): its three outcomes, what an EMIT does to each field, where the slices of
the emitted CIF stand, and that one of the agents always has a step. -/
namespace Sys2Proof.Machine

section stall

variable {s : State} (hl : s.life = .run)
include hl

/-- ASM with outcome STALL is held (R131, R132). -/
theorem execAsm_stall (hemit : ¬(s.AllReady ∧ s.HasRoom)) (hend : ¬s.EndedShort) :
    execAsm s = .fault s.stallReason := by
  simp [execAsm, hl, (s.asmOutcome_stall_iff hl).2 ⟨hemit, hend⟩]

/-- With every port ready, STALL is for lack of room (R131). -/
theorem State.stallReason_of_allReady (ha : s.AllReady) : s.stallReason = .heldNoRoom :=
  if_pos ((s.availAll_iff hl).2 ha)

/-- With a port not ready, STALL is for the starved port (R131). -/
theorem State.stallReason_of_not_allReady (ha : ¬s.AllReady) : s.stallReason = .heldStarved :=
  if_neg (mt (s.availAll_iff hl).1 ha)

end stall

section layout

variable {s : State} {c : Nat}

/-- The `j`-th of some lists stands in all of them together after the lists before it. -/
theorem take_drop_flatMap_range_whole {α : Type} (g : Nat → List α) {j k : Nat} (hj : j < k) :
    (((List.range k).flatMap g).drop ((List.range j).flatMap g).length).take (g j).length = g j := by
  simpa using take_drop_flatMap_range g hj (n := 0) (m := (g j).length) (by omega)

/-- A port that holds what a CIF needs of it gives a slice of that length (R134). -/
theorem State.length_slice {p : Nat} (h : s.need p c ≤ (s.fifo p).length) : (s.slice p c).length = s.need p c :=
  List.length_take_of_le h

/-- The slices of the ports below `p` fill the CIF up to the offset of port `p` (R134). -/
theorem State.length_slices {p : Nat} (h : ∀ q, q < p → s.need q c ≤ (s.fifo q).length) :
    ((List.range p).flatMap (fun q => s.slice q c)).length = s.off p c := by
  rw [List.length_flatMap, State.off]
  exact congrArg List.sum (List.map_congr_left fun q hq => State.length_slice (h q (List.mem_range.1 hq)))

/-- A port's slice stands in the assembled CIF at the port's offset (R134). -/
theorem State.take_drop_assembled {p : Nat} (hp : p ≤ s.numSub)
    (h : ∀ q, q ≤ s.numSub → s.need q c ≤ (s.fifo q).length) :
    ((s.assembled c).drop (s.off p c)).take (s.need p c) = s.slice p c := by
  have hslice := State.length_slice (h p hp)
  have hoff := State.length_slices (p := p) fun q hq => h q (by omega)
  rw [State.assembled, State.portNumbers, ← hoff, ← hslice]
  exact take_drop_flatMap_range_whole (fun q => s.slice q c) (Nat.lt_succ_of_le hp)

end layout

section counters

variable {s : State}

/-- CIFCTR advances modulo the CIFs per frame (R136). -/
theorem State.nextCif_eq_mod (hle : s.cifsPerFrame ≤ 256) (hlt : s.cifctr.toNat < s.cifsPerFrame) :
    s.nextCif.toNat = (s.cifctr.toNat + 1) % s.cifsPerFrame := by
  rw [State.nextCif_toNat hle]
  split
  · next h => exact (Nat.mod_eq_of_lt h).symm
  · next h => rw [show s.cifctr.toNat + 1 = s.cifsPerFrame by omega, Nat.mod_self]

/-- CIFCTR becomes 0 exactly after the last CIF of the frame (R136). -/
theorem State.nextCif_eq_zero_iff (hle : s.cifsPerFrame ≤ 256) :
    s.nextCif = 0 ↔ ¬s.cifctr.toNat + 1 < s.cifsPerFrame := by
  rw [← BitVec.toNat_inj, State.nextCif_toNat hle]
  split
  · next h => simp [h]
  · next h => simp [h]

theorem State.nextCif_of_lt (h : s.cifctr.toNat + 1 < s.cifsPerFrame) : s.nextCif = s.cifctr + 1 := if_pos h

theorem State.nextCif_of_not_lt (h : ¬s.cifctr.toNat + 1 < s.cifsPerFrame) : s.nextCif = 0 := if_neg h

theorem State.nextFrame_of_lt (h : s.cifctr.toNat + 1 < s.cifsPerFrame) : s.nextFrame = s.frmctr := if_pos h

theorem State.nextFrame_of_not_lt (h : ¬s.cifctr.toNat + 1 < s.cifsPerFrame) : s.nextFrame = s.frmctr + 1 := if_neg h

/-- No operation but ASM and RESET writes the counters (R136). -/
theorem Effect_counters {i : Instr} {s t : State} (h : Effect i s t) (hasm : i ≠ .asm) (hreset : i ≠ .reset) :
    t.cifctr = s.cifctr ∧ t.frmctr = s.frmctr := by
  cases h with
  | reset => exact absurd rfl hreset
  | emit | endOfStream => exact absurd rfl hasm
  | cfgSize _ v => exact ⟨s.appendSize_cifctr v, s.appendSize_frmctr v⟩
  | commit => exact ⟨s.construct_cifctr, s.construct_frmctr⟩
  | _ => exact ⟨rfl, rfl⟩

end counters

/-- An ASM after which LIFE is RUN was an EMIT (R131). -/
theorem execAsm_emit_of_run {s t : State} (hx : execAsm s = .next t) (hl : t.life = .run) :
    s.AllReady ∧ t = s.emit.silent := by
  obtain ⟨-, ⟨ha, -, ht⟩ | ⟨-, rfl⟩⟩ := execAsm_next hx
  · exact ⟨ha, ht⟩
  · cases hl

/-- An ASM after which LIFE is END was an END transition (R131). -/
theorem execAsm_end_of_ended {s t : State} (hx : execAsm s = .next t) (hl : t.life = .ended) :
    t = s.raiseEndOfStream.silent := by
  obtain ⟨hrun, ⟨-, -, rfl⟩ | ⟨-, ht⟩⟩ := execAsm_next hx
  · rw [State.silent_life, State.emit_life, hrun] at hl
    cases hl
  · exact ht

section deadlock

variable {s : State} (hs : s.Inv) (hl : s.life = .run)
include hs hl

/-- A short port that has not ended accepts a byte, as its FIFO is not full (R133, R146). -/
theorem State.Inv.push_enabled_of_short {p : BitVec 8} (hp : p.toNat ≤ s.numSub) (hshort : ¬s.Ready p.toNat)
    (hopen : s.eosf p.toNat = false) (b : Byte) : ∃ t, exec (.push p b) s = .next t :=
  ⟨_, execPush_enabled p b s hl hp hopen (Classical.not_not.1 (mt (hs.ready_of_full (.inl hl) hp) hshort))⟩

/-- With all ports ready ASM has a step, or OUT holds a byte for the consumer (R133, R146). -/
theorem State.Inv.asm_or_pop_of_allReady (ha : s.AllReady) :
    (∃ t, exec .asm s = .next t) ∨ ∃ t, exec .pop s = .next t := by
  cases hout : s.out with
  | nil => exact .inl ⟨_, execAsm_emit s hl ha (hs.hasRoom_of_out_nil (.inl hl) hout)⟩
  | cons b rest => exact .inr ⟨_, execPop_cons s b rest hout⟩

/-- A port number of a state in RUN is an operand of PUSH (R10). -/
theorem State.Inv.toNat_ofNat_port {p : Nat} (hp : p ≤ s.numSub) : (BitVec.ofNat 8 p).toNat = p := by
  obtain ⟨⟨-, -, ⟨-, hmax⟩, -⟩, -⟩ := hs.valid (.inl hl)
  obtain ⟨-, -, -, ⟨-, hbound⟩, -⟩ := hs.admissible
  rw [BitVec.toNat_ofNat]
  omega

end deadlock

/-- Settles O22: each hold is a branch of ASM or POP. -/
theorem asmAndPopHeldForTheReason : Obligations.AsmAndPopHeldForTheReason := by
  unfold Obligations.AsmAndPopHeldForTheReason
  intro s
  refine ⟨exec_asm_notRunning, fun hl hstarved hend => ?_, fun hl ha hroom => ?_, execPop_nil s⟩
  · have hheld := execAsm_stall hl (fun h => hstarved h.1) hend
    rwa [State.stallReason_of_not_allReady hl hstarved] at hheld
  · have hheld := execAsm_stall hl (fun h => hroom h.2) fun he => s.not_allReady_of_endedShort he ha
    rwa [State.stallReason_of_allReady hl ha] at hheld

/-- Settles O21: EMIT and END each have a step, and a step is one of the two. -/
theorem asmHasOneOutcome : Obligations.AsmHasOneOutcome := by
  unfold Obligations.AsmHasOneOutcome
  intro s
  refine ⟨fun hl ha hr => ⟨_, execAsm_emit s hl ha hr, hl⟩, fun hl he => ⟨_, execAsm_end s hl he, rfl⟩,
    fun hno t hx => hno ?_, fun ⟨ha, he⟩ => s.not_allReady_of_endedShort he ha⟩
  obtain ⟨hl, ⟨ha, hr, -⟩ | ⟨he, -⟩⟩ := execAsm_next hx
  · exact ⟨hl, .inl ⟨ha, hr⟩⟩
  · exact ⟨hl, .inr he⟩

/-- Settles O23: the fields of the state after EMIT. -/
theorem emitTakesEverySlice : Obligations.EmitTakesEverySlice := by
  unfold Obligations.EmitTakesEverySlice
  intro s hl ha hr
  refine ⟨s.emit.silent, execAsm_emit s hl ha hr, rfl, fun p hp => ?_, fun p hp => ?_,
    fun p => ⟨s.emit_eosf p, s.emit_resid p, s.emit_prem p⟩,
    fun h => ⟨State.nextCif_of_lt h, State.nextFrame_of_lt h⟩,
    fun h => ⟨State.nextCif_of_not_lt h, State.nextFrame_of_not_lt h⟩, rfl⟩
  · rw [State.silent_fifo, State.emit_fifo, if_pos hp]
  · rw [State.silent_fifo, State.emit_fifo, if_neg (Nat.not_le_of_lt hp)]

/-- Settles O24: the unit is the assembled CIF, in which every slice is preceded by those of the ports before. -/
theorem emittedCifLayout : Obligations.EmittedCifLayout := by
  unfold Obligations.EmittedCifLayout
  intro s t hx hl
  obtain ⟨ha, rfl⟩ := execAsm_emit_of_run hx hl
  exact ⟨s.assembled s.cifctr.toNat, rfl, State.assembled_length ha,
    fun p hp => ⟨State.take_drop_assembled hp ha, State.length_slice (ha p hp)⟩⟩

/-- Settles O25: the two counters after EMIT, after END, and after an operation that is neither ASM nor RESET. -/
theorem countersAdvanceOnlyOnEmit : Obligations.CountersAdvanceOnlyOnEmit := by
  unfold Obligations.CountersAdvanceOnlyOnEmit
  intro s t hs
  refine ⟨fun hx hl => ?_, fun hx hl => ?_, fun i hasm hreset hx => Effect_counters (exec_effect hx) hasm hreset⟩
  · obtain ⟨-, rfl⟩ := execAsm_emit_of_run hx hl
    have hle : s.cifsPerFrame ≤ 256 := hs.cifsPerFrame_le (.inl hl)
    refine ⟨State.nextCif_eq_mod hle (hs.cifctrBound (.inl hl)), fun hzero => ?_, fun hne => ?_⟩
    · have hframe := State.nextFrame_of_not_lt ((State.nextCif_eq_zero_iff hle).1 hzero)
      rw [State.silent_frmctr, State.emit_frmctr, hframe, BitVec.toNat_add]
      rfl
    · exact State.nextFrame_of_lt (Decidable.not_not.1 (mt (State.nextCif_eq_zero_iff hle).2 hne))
  · rw [execAsm_end_of_ended hx hl]
    exact ⟨rfl, rfl⟩

/-- Settles O30: some port is short and still open, some port is short and has ended, or all are ready. -/
theorem noDeadlockInRun : Obligations.NoDeadlockInRun := by
  unfold Obligations.NoDeadlockInRun
  intro s hs hl
  refine ⟨fun p b hp hshort hopen => hs.push_enabled_of_short hl hp hshort hopen b,
    fun he => ⟨_, execAsm_end s hl he⟩, hs.asm_or_pop_of_allReady hl, ?_⟩
  by_cases ha : s.AllReady
  · exact (hs.asm_or_pop_of_allReady hl ha).imp_right .inl
  · obtain ⟨p, hp, hshort⟩ : ∃ p, p ≤ s.numSub ∧ ¬s.Ready p := by
      simpa only [State.AllReady, Classical.not_forall, exists_prop] using ha
    cases hend : s.eosf p with
    | true => exact .inl ⟨_, execAsm_end s hl ⟨p, hp, hshort, hend⟩⟩
    | false =>
      have hport := hs.toNat_ofNat_port hl hp
      exact .inr (.inr ⟨BitVec.ofNat 8 p, hport.symm ▸ hp, fun b =>
        hs.push_enabled_of_short hl (hport.symm ▸ hp) (hport.symm ▸ hshort) (hport.symm ▸ hend) b⟩)

end Sys2Proof.Machine
end

section
/-! The output family (spec/43_output.md), POP and the end of a run (R155, R157, R209): the head of OUT, and the operations
that a run in END with OUT empty still performs. -/
namespace Sys2Proof.Machine

/-- Settles O32: OUT has a head byte or is empty. -/
theorem popTakesTheHead : Obligations.PopTakesTheHead := by
  unfold Obligations.PopTakesTheHead
  intro s
  refine ⟨execPop_cons s, fun ho t hx => ?_⟩
  obtain ⟨b, rest, hcons, -⟩ := execPop_next hx
  exact List.cons_ne_nil b rest (hcons.symm.trans ho)

/-- RDSR is enabled in every state and only answers (R166). -/
theorem exec_rdsr_responds {i : Instr} (hi : isRdsr i = true) (s : State) :
    ∃ v, exec i s = .next (s.respond (.word v)) := by
  cases i with
  | reset | cfgMode | cfgCount | cfgSize | cfgCommit | push | eos | asm | pop => cases hi
  | _ => exact ⟨_, rfl⟩

/-- When a run is over, a step other than RESET is a CFG operation or an RDSR and writes only `response`: PUSH, EOS and
ASM need RUN, a CFG write needs IDLE, POP needs a byte in OUT (R157). -/
theorem Effect_of_over {i : Instr} {s t : State} (hover : s.Over) (h : Effect i s t) :
    i = .reset ∨ ((isCfg i = true ∨ isRdsr i = true) ∧ t = { s with response := t.response }) := by
  obtain ⟨hended, hempty⟩ := hover
  cases h with
  | reset => exact .inl rfl
  | ignored _ _ hi => exact .inr ⟨.inl hi, rfl⟩
  | rdsr _ _ _ hi => exact .inr ⟨.inr hi, rfl⟩
  | cfgMode _ _ hl | cfgCount _ _ hl | cfgSize _ _ hl | commit _ hl => exact nomatch hended.symm.trans hl
  | push _ _ _ hl | eos _ _ hl | emit _ hl | endOfStream _ hl => exact nomatch hended.symm.trans hl
  | pop _ _ _ ho => exact nomatch hempty.symm.trans ho

/-- Settles O34: `Effect_of_over` leaves only the operations that are enabled in every lifecycle state. -/
theorem overStaysOver : Obligations.OverStaysOver := by
  unfold Obligations.OverStaysOver
  intro s hover
  refine ⟨fun i t hx => (Effect_of_over hover (exec_effect hx)).imp_right And.right, fun i => ⟨?_, ?_⟩⟩
  · rintro ⟨t, hx⟩
    exact (Effect_of_over hover (exec_effect hx)).imp_right And.left
  · rintro (rfl | hcfg | hrdsr)
    · exact ⟨s.resetAll, rfl⟩
    · obtain ⟨hended, -⟩ := hover
      have hlife : s.life ≠ .idle := fun hl => nomatch hended.symm.trans hl
      exact ⟨s.silent, exec_cfg_ignored hcfg hlife⟩
    · obtain ⟨v, hx⟩ := exec_rdsr_responds hrdsr s
      exact ⟨s.respond (.word v), hx⟩

end Sys2Proof.Machine
end

section
/-! The exceptions family (spec/60_exceptions.md), the END transition (R137, R181) and what stays once seen (R26, R28, R186,
R220): the operations that write a port's report, the configuration, or an EOSF flag. -/
namespace Sys2Proof.Machine

section endReports

variable {s : State} {p : Nat} (hend : p ≤ s.numSub ∧ s.eosf p = true)
include hend

/-- END empties the FIFO of an ended port (R137). -/
theorem State.raiseEndOfStream_fifo_ended : s.raiseEndOfStream.fifo p = [] := by
  rw [State.raiseEndOfStream_fifo, if_pos hend]

/-- END counts the residual of an ended port, saturating (R137, R181). -/
theorem State.raiseEndOfStream_resid_ended : s.raiseEndOfStream.resid p = saturate32 (s.fifo p).length := by
  rw [State.raiseEndOfStream_resid, if_pos hend]

/-- END marks an ended port whose residual is no whole number of slots (R137). -/
theorem State.raiseEndOfStream_prem_ended_iff :
    s.raiseEndOfStream.prem p = true ↔ (s.fifo p).length % s.slot p ≠ 0 := by
  rw [State.raiseEndOfStream_prem, if_pos hend, decide_eq_true_iff]

end endReports

/-- Settles O26: the state after END, port by port. -/
theorem endDiscardsAndReports : Obligations.EndDiscardsAndReports := by
  unfold Obligations.EndDiscardsAndReports
  intro s hl he
  refine ⟨s.raiseEndOfStream.silent, execAsm_end s hl he, rfl, fun p hp heos => ?_,
    s.raiseEndOfStream_port_other, s.raiseEndOfStream_eosf, rfl⟩
  exact ⟨State.raiseEndOfStream_fifo_ended ⟨hp, heos⟩, State.raiseEndOfStream_resid_ended ⟨hp, heos⟩,
    State.raiseEndOfStream_prem_ended_iff ⟨hp, heos⟩⟩

section stable

variable {i : Instr} {s t : State}

/-- EOS clears no flag: on a port that does not exist it writes nothing (R28, R116). -/
theorem State.setEos_keeps_eosf (p : Nat) {r : Nat} (h : s.eosf r = true) : (s.setEos p).eosf r = true := by
  by_cases hr : r = p
  · subst hr
    rwa [State.setEos_of_eosf h]
  · rwa [State.eosf, s.setEos_port_ne p r hr]

variable (h : Effect i s t) (hreset : i ≠ .reset)
include h hreset

/-- Outside IDLE only RESET writes the configuration (R26, R100). -/
theorem Effect_sameConfig (hl : s.life ≠ .idle) : SameConfig s t := by
  cases h with
  | reset => exact absurd rfl hreset
  | cfgMode _ _ hidle | cfgCount _ _ hidle | cfgSize _ _ hidle | commit _ hidle => exact absurd hidle hl
  | _ => exact ⟨rfl, rfl, rfl, rfl, rfl⟩

/-- Only RESET clears EOSF (R28). -/
theorem Effect_keeps_eosf {p : Nat} (heos : s.eosf p = true) : t.eosf p = true := by
  cases h with
  | reset => exact absurd rfl hreset
  | cfgSize _ v => exact (congrArg Port.eosf (State.port_congr (s.appendSize_ports v) p)).trans heos
  | commit => exact (congrArg Port.eosf (State.port_congr s.construct_ports p)).trans heos
  | push _ q b => exact (s.pushByte_eosf q.toNat p b).trans heos
  | eos _ q => exact State.setEos_keeps_eosf q.toNat heos
  | emit => exact (s.emit_eosf p).trans heos
  | endOfStream => exact (s.raiseEndOfStream_eosf p).trans heos
  | _ => exact heos

/-- Outside RUN only RESET writes RESID and PREM, as END is a step from RUN (R34, R137). -/
theorem Effect_reports (hl : s.life ≠ .run) (p : Nat) : t.resid p = s.resid p ∧ t.prem p = s.prem p := by
  cases h with
  | reset => exact absurd rfl hreset
  | push _ _ _ hrun | eos _ _ hrun | emit _ hrun | endOfStream _ hrun => exact absurd hrun hl
  | cfgSize _ v =>
    have hport := State.port_congr (s.appendSize_ports v) p
    exact ⟨congrArg Port.resid hport, congrArg Port.prem hport⟩
  | commit =>
    have hport := State.port_congr s.construct_ports p
    exact ⟨congrArg Port.resid hport, congrArg Port.prem hport⟩
  | _ => exact ⟨rfl, rfl⟩

/-- Only RESET leaves CFGERR or END, or writes ERR there: the other transitions of R21 start from IDLE or RUN (R186). -/
theorem Effect_absorbed (hidle : s.life ≠ .idle) (hrun : s.life ≠ .run) : t.life = s.life ∧ t.err = s.err := by
  rcases Effect_life_err h with hsame | ⟨hi, -⟩ | ⟨-, hl, -⟩ | ⟨-, hl, -⟩ | ⟨-, hl, -⟩
  · exact hsame
  · exact absurd hi hreset
  · exact absurd hl hidle
  · exact absurd hl hidle
  · exact absurd hl hrun

end stable

/-- Settles O44: what an operation other than RESET keeps. -/
theorem stableFacts : Obligations.StableFacts := by
  unfold Obligations.StableFacts
  intro i s t hx hreset
  have heff := exec_effect hx
  refine ⟨fun hl => ?_, Effect_sameConfig heff hreset, fun p => Effect_keeps_eosf heff hreset⟩
  have hidle : s.life ≠ .idle := by rcases hl with hl | hl <;> simp [hl]
  have hrun : s.life ≠ .run := by rcases hl with hl | hl <;> simp [hl]
  obtain ⟨hlife, herr⟩ := Effect_absorbed heff hreset hidle hrun
  exact ⟨hlife, herr, Effect_reports heff hreset hrun⟩

end Sys2Proof.Machine
end

section
/-! The exceptions family, the operations against the lifecycle states (R178, R182, R189): which have a step where. -/
namespace Sys2Proof.Machine

/-- A CFG operation has a step in every state: in IDLE it writes, outside it is ignored (R100, R182). -/
theorem exec_cfg_next {i : Instr} (hi : isCfg i = true) (s : State) : ∃ t, exec i s = .next t := by
  cases i with
  | cfgMode | cfgCount | cfgSize | cfgCommit => exact ⟨_, rfl⟩
  | _ => cases hi

/-- POP has a step iff OUT holds a byte (R155). -/
theorem exec_pop_next_iff (s : State) : (∃ t, exec .pop s = .next t) ↔ s.out ≠ [] := by
  constructor
  · rintro ⟨t, hx⟩
    obtain ⟨b, rest, hcons, -⟩ := execPop_next hx
    exact hcons ▸ List.cons_ne_nil b rest
  · intro hne
    obtain ⟨b, rest, hcons⟩ := List.exists_cons_of_ne_nil hne
    exact ⟨_, execPop_cons s b rest hcons⟩

/-- ASM has a step iff LIFE is RUN and its outcome is EMIT or END (R131, R132). -/
theorem exec_asm_next_iff (s : State) :
    (∃ t, exec .asm s = .next t) ↔ s.life = .run ∧ ((s.AllReady ∧ s.HasRoom) ∨ s.EndedShort) := by
  constructor
  · rintro ⟨t, hx⟩
    obtain ⟨hl, ⟨ha, hr, -⟩ | ⟨he, -⟩⟩ := execAsm_next hx
    · exact ⟨hl, .inl ⟨ha, hr⟩⟩
    · exact ⟨hl, .inr he⟩
  · rintro ⟨hl, ⟨ha, hr⟩ | he⟩
    · exact ⟨_, execAsm_emit s hl ha hr⟩
    · exact ⟨_, execAsm_end s hl he⟩

/-- Settles O45: the operations by their row of R189's table. -/
theorem lifecycleTable : Obligations.LifecycleTable := by
  unfold Obligations.LifecycleTable
  intro i s
  refine ⟨?_, ?_, exec_pop_next_iff s, exec_asm_next_iff s⟩
  · rintro (rfl | hcfg | hrdsr)
    · exact ⟨s.resetAll, rfl⟩
    · exact exec_cfg_next hcfg s
    · obtain ⟨v, hx⟩ := exec_rdsr_responds hrdsr s
      exact ⟨s.respond (.word v), hx⟩
  · rintro hl (rfl | ⟨p, rfl⟩ | ⟨p, b, rfl⟩)
    · exact exec_asm_notRunning hl
    · exact exec_eos_notRunning hl p
    · exact exec_push_notRunning hl p b

end Sys2Proof.Machine
end
